-- ==== Sys2Proof/Word.lean ====
section
/-! DEFINITION. The plain data types every layer shares: byte, address, register operand, flags. -/

namespace Sys2Proof

/-- An 8-bit unsigned value (00_scope.md R9). -/
abbrev Byte := BitVec 8

/-- A 16-bit unsigned value: an address, or `pc` (20_memory.md R35, 10_state.md R21). -/
abbrev Addr := BitVec 16

/-- A resolved register operand (30_encoding.md R65): one of the eight slots, or the sink register at address
0xFF, which reads 0 and discards writes (10_state.md R16, R18). -/
inductive Reg where
  | slot (n : Fin 8)
  | sink
deriving DecidableEq, Repr

/-- The three one-bit flags (10_state.md R23). -/
structure Flags where
  zero : Bool
  underflow : Bool
  overflow : Bool
deriving DecidableEq, Repr

end Sys2Proof
end

