-- ==== Sys2Proof/Config.lean ====
section
/-! DEFINITION. What an implementation fixes: the named parameters of 00_scope.md R8, and the free values. -/

namespace Sys2Proof

/-- The thirteen formats (30_encoding.md R68). -/
inductive Format where
  /-- `F_`: the opcode alone. -/
  | f0
  /-- `F_R`: one register. -/
  | fR
  /-- `F_I`: one immediate byte. -/
  | fI
  /-- `F_RR`: destination, then source register. -/
  | fRR
  /-- `F_RI`: destination register, then immediate byte. -/
  | fRI
  /-- `F_A`: a 16-bit address, high byte first. -/
  | fA
  /-- `F_P`: a register pair, the high byte first. -/
  | fP
  /-- `F_RA`: destination register, then a 16-bit address. -/
  | fRA
  /-- `F_RP`: destination register, then a register pair. -/
  | fRP
  /-- `F_PR`: a register pair, then the value register. -/
  | fPR
  /-- `F_AR`: a 16-bit address, then the value register. -/
  | fAR
  /-- `F_PI`: a register pair, then an immediate byte. -/
  | fPI
  /-- `F_AI`: a 16-bit address, then an immediate byte. -/
  | fAI
deriving DecidableEq, Repr

/-- The 53 instruction forms (30_encoding.md R69), in the order of its table: the domain of OPCODE_MAP. -/
inductive Form where
  | nop | movRR | movRI | movRA | movRP | notR | andRR | andRI | jmpA
  | jmpP | jzA | jzP | jnzA | jnzP | juA | juP | jnuA | jnuP
  | joA | joP | jnoA | jnoP | cmpRI | cmpRR | pushR | pushI | popR
  | addRI | addRR | subRI | subRR | mulRI | mulRR | divRI | divRR | modRI
  | modRR | incR | decR | pwrRI | pwrRR | sqrtR | fsqrtR | callA | callP
  | ret | storePR | storeAR | storePI | storeAI | haltR | haltI | halt
deriving DecidableEq, Repr

/-- Every form, in table order. -/
def Form.all : List Form :=
  [.nop, .movRR, .movRI, .movRA, .movRP, .notR, .andRR, .andRI, .jmpA,
   .jmpP, .jzA, .jzP, .jnzA, .jnzP, .juA, .juP, .jnuA, .jnuP,
   .joA, .joP, .jnoA, .jnoP, .cmpRI, .cmpRR, .pushR, .pushI, .popR,
   .addRI, .addRR, .subRI, .subRR, .mulRI, .mulRR, .divRI, .divRR, .modRI,
   .modRR, .incR, .decR, .pwrRI, .pwrRR, .sqrtR, .fsqrtR, .callA, .callP,
   .ret, .storePR, .storeAR, .storePI, .storeAI, .haltR, .haltI, .halt]

/-- A form's place in the table of 30_encoding.md R69, counted from 0. -/
def Form.index : Form → Fin 53
  | .nop => 0 | .movRR => 1 | .movRI => 2 | .movRA => 3 | .movRP => 4 | .notR => 5
  | .andRR => 6 | .andRI => 7 | .jmpA => 8 | .jmpP => 9 | .jzA => 10 | .jzP => 11
  | .jnzA => 12 | .jnzP => 13 | .juA => 14 | .juP => 15 | .jnuA => 16 | .jnuP => 17
  | .joA => 18 | .joP => 19 | .jnoA => 20 | .jnoP => 21 | .cmpRI => 22 | .cmpRR => 23
  | .pushR => 24 | .pushI => 25 | .popR => 26 | .addRI => 27 | .addRR => 28 | .subRI => 29
  | .subRR => 30 | .mulRI => 31 | .mulRR => 32 | .divRI => 33 | .divRR => 34 | .modRI => 35
  | .modRR => 36 | .incR => 37 | .decR => 38 | .pwrRI => 39 | .pwrRR => 40 | .sqrtR => 41
  | .fsqrtR => 42 | .callA => 43 | .callP => 44 | .ret => 45 | .storePR => 46 | .storeAR => 47
  | .storePI => 48 | .storeAI => 49 | .haltR => 50 | .haltI => 51 | .halt => 52

/-- The parameter OPCODE_MAP (00_scope.md R8, 30_encoding.md R69): the opcode byte of each form, in table order. -/
structure OpcodeMap where
  bytes : Vector Byte 53
deriving DecidableEq, Repr

/-- The opcode byte a map gives a form. -/
def OpcodeMap.opcode (m : OpcodeMap) (f : Form) : Byte := m.bytes.get f.index

/-- The parameters with a default that a machine is built with (00_scope.md R8). The machine carries them in its
state and no step changes them (notes/assumptions/1.md, 2.md and 6.md). -/
structure Params where
  /-- OPCODE_MAP (30_encoding.md R69). -/
  opcodeMap : OpcodeMap
  /-- STACK_BASE (20_memory.md R44). -/
  stackBase : Addr
  /-- SQRT_MAGIC (46_power_root.md R121). -/
  sqrtMagic : BitVec 32
deriving DecidableEq, Repr

/-- The parameters that only the creation of an instance reads (10_state.md R31). -/
structure Init where
  /-- REG_INIT. -/
  regs : Vector Byte 8
  /-- FLAGS_INIT. -/
  flags : Flags
  /-- SP_INIT. -/
  sp : Byte
deriving DecidableEq, Repr

/-- The parameter PWR_LARGE (00_scope.md R8, 46_power_root.md R119), base and exponent to the byte PWR stores when
base^exponent is at least 2^31. FREE VALUE: it has no body, so nothing can be proved of it (notes/assumptions/9.md). -/
opaque Config.pwrLarge : Byte → Byte → Byte

/-- What SQRT stores when the reciprocal it rounds is not a number or is infinite, by the magic constant and the
input: 46_power_root.md R121 gives no result there. It cannot arise under the default constant. FREE VALUE
(notes/assumptions/8.md). -/
opaque Config.sqrtNoInteger : BitVec 32 → Byte → Byte

/-- The parameter FB_BASE (00_scope.md R8, 20_memory.md R57): unconstrained, and no rule of the core reads it
(notes/assumptions/10.md). -/
opaque Config.fbBase : Addr

/-- The parameter ARCH_ID (00_scope.md R8, R12): what IDENTIFY returns, unconstrained (notes/assumptions/10.md). -/
opaque Config.archId : String

end Sys2Proof
end

