-- ==== Sys2Proof/Syntax.lean ====
section
/-! DEFINITION. The instructions: one constructor per row of spec/opcode_table.json, operands in syntax order
(30_encoding.md R67). Register operands are resolved ones (R65). -/

namespace Sys2Proof

/-- The 53 instruction forms with their operands (30_encoding.md R69). -/
inductive Instr where
  /-- NOP (40_control_move.md R78). -/
  | nop
  /-- MOV $x,$y (40_control_move.md R79). -/
  | movRR (x : Reg) (y : Reg)
  /-- MOV $x,#n (40_control_move.md R80). -/
  | movRI (x : Reg) (n : Byte)
  /-- MOV $x,[#nn] (40_control_move.md R81). -/
  | movRA (x : Reg) (nn : Addr)
  /-- MOV $x,[$y,$z] (40_control_move.md R82). -/
  | movRP (x : Reg) (y : Reg) (z : Reg)
  /-- NOT $x (41_bitwise.md R83). -/
  | notR (x : Reg)
  /-- AND $x,$y (41_bitwise.md R84). -/
  | andRR (x : Reg) (y : Reg)
  /-- AND $x,#n (41_bitwise.md R85). -/
  | andRI (x : Reg) (n : Byte)
  /-- JMP [#nn] (42_jump.md R87). -/
  | jmpA (nn : Addr)
  /-- JMP [$x,$y] (42_jump.md R88). -/
  | jmpP (x : Reg) (y : Reg)
  /-- JZ [#nn] (42_jump.md R89). -/
  | jzA (nn : Addr)
  /-- JZ [$x,$y] (42_jump.md R90). -/
  | jzP (x : Reg) (y : Reg)
  /-- JNZ [#nn] (42_jump.md R91). -/
  | jnzA (nn : Addr)
  /-- JNZ [$x,$y] (42_jump.md R92). -/
  | jnzP (x : Reg) (y : Reg)
  /-- JU [#nn] (42_jump.md R93). -/
  | juA (nn : Addr)
  /-- JU [$x,$y] (42_jump.md R94). -/
  | juP (x : Reg) (y : Reg)
  /-- JNU [#nn] (42_jump.md R95). -/
  | jnuA (nn : Addr)
  /-- JNU [$x,$y] (42_jump.md R96). -/
  | jnuP (x : Reg) (y : Reg)
  /-- JO [#nn] (42_jump.md R97). -/
  | joA (nn : Addr)
  /-- JO [$x,$y] (42_jump.md R98). -/
  | joP (x : Reg) (y : Reg)
  /-- JNO [#nn] (42_jump.md R99). -/
  | jnoA (nn : Addr)
  /-- JNO [$x,$y] (42_jump.md R100). -/
  | jnoP (x : Reg) (y : Reg)
  /-- CMP $x,#n (43_compare.md R101). -/
  | cmpRI (x : Reg) (n : Byte)
  /-- CMP $x,$y (43_compare.md R102). -/
  | cmpRR (x : Reg) (y : Reg)
  /-- PUSH $x (44_stack.md R103). -/
  | pushR (x : Reg)
  /-- PUSH #n (44_stack.md R104). -/
  | pushI (n : Byte)
  /-- POP $x (44_stack.md R105). -/
  | popR (x : Reg)
  /-- ADD $x,#n (45_arithmetic.md R107). -/
  | addRI (x : Reg) (n : Byte)
  /-- ADD $x,$y (45_arithmetic.md R108). -/
  | addRR (x : Reg) (y : Reg)
  /-- SUB $x,#n (45_arithmetic.md R109). -/
  | subRI (x : Reg) (n : Byte)
  /-- SUB $x,$y (45_arithmetic.md R110). -/
  | subRR (x : Reg) (y : Reg)
  /-- MUL $x,#n (45_arithmetic.md R111). -/
  | mulRI (x : Reg) (n : Byte)
  /-- MUL $x,$y (45_arithmetic.md R112). -/
  | mulRR (x : Reg) (y : Reg)
  /-- DIV $x,#n (45_arithmetic.md R113). -/
  | divRI (x : Reg) (n : Byte)
  /-- DIV $x,$y (45_arithmetic.md R114). -/
  | divRR (x : Reg) (y : Reg)
  /-- MOD $x,#n (45_arithmetic.md R115). -/
  | modRI (x : Reg) (n : Byte)
  /-- MOD $x,$y (45_arithmetic.md R116). -/
  | modRR (x : Reg) (y : Reg)
  /-- INC $x (45_arithmetic.md R117). -/
  | incR (x : Reg)
  /-- DEC $x (45_arithmetic.md R118). -/
  | decR (x : Reg)
  /-- PWR $x,#n (46_power_root.md R119). -/
  | pwrRI (x : Reg) (n : Byte)
  /-- PWR $x,$y (46_power_root.md R120). -/
  | pwrRR (x : Reg) (y : Reg)
  /-- SQRT $x (46_power_root.md R121). -/
  | sqrtR (x : Reg)
  /-- FSQRT $x (46_power_root.md R122). -/
  | fsqrtR (x : Reg)
  /-- CALL [#nn] (47_call_return.md R123). -/
  | callA (nn : Addr)
  /-- CALL [$x,$y] (47_call_return.md R124). -/
  | callP (x : Reg) (y : Reg)
  /-- RET (47_call_return.md R125). -/
  | ret
  /-- STORE [$x,$y],$z (48_store.md R126). -/
  | storePR (x : Reg) (y : Reg) (z : Reg)
  /-- STORE [#nn],$x (48_store.md R127). -/
  | storeAR (nn : Addr) (x : Reg)
  /-- STORE [$x,$y],#n (48_store.md R128). -/
  | storePI (x : Reg) (y : Reg) (n : Byte)
  /-- STORE [#nn],#n (48_store.md R129). -/
  | storeAI (nn : Addr) (n : Byte)
  /-- HALT $x (49_halt.md R132). -/
  | haltR (x : Reg)
  /-- HALT #n (49_halt.md R131). -/
  | haltI (n : Byte)
  /-- HALT (49_halt.md R130). -/
  | halt
deriving DecidableEq, Repr

/-- The form of an instruction: what its opcode byte identifies (30_encoding.md R63). -/
def Instr.form : Instr → Form
  | .nop => .nop
  | .movRR _ _ => .movRR
  | .movRI _ _ => .movRI
  | .movRA _ _ => .movRA
  | .movRP _ _ _ => .movRP
  | .notR _ => .notR
  | .andRR _ _ => .andRR
  | .andRI _ _ => .andRI
  | .jmpA _ => .jmpA
  | .jmpP _ _ => .jmpP
  | .jzA _ => .jzA
  | .jzP _ _ => .jzP
  | .jnzA _ => .jnzA
  | .jnzP _ _ => .jnzP
  | .juA _ => .juA
  | .juP _ _ => .juP
  | .jnuA _ => .jnuA
  | .jnuP _ _ => .jnuP
  | .joA _ => .joA
  | .joP _ _ => .joP
  | .jnoA _ => .jnoA
  | .jnoP _ _ => .jnoP
  | .cmpRI _ _ => .cmpRI
  | .cmpRR _ _ => .cmpRR
  | .pushR _ => .pushR
  | .pushI _ => .pushI
  | .popR _ => .popR
  | .addRI _ _ => .addRI
  | .addRR _ _ => .addRR
  | .subRI _ _ => .subRI
  | .subRR _ _ => .subRR
  | .mulRI _ _ => .mulRI
  | .mulRR _ _ => .mulRR
  | .divRI _ _ => .divRI
  | .divRR _ _ => .divRR
  | .modRI _ _ => .modRI
  | .modRR _ _ => .modRR
  | .incR _ => .incR
  | .decR _ => .decR
  | .pwrRI _ _ => .pwrRI
  | .pwrRR _ _ => .pwrRR
  | .sqrtR _ => .sqrtR
  | .fsqrtR _ => .fsqrtR
  | .callA _ => .callA
  | .callP _ _ => .callP
  | .ret => .ret
  | .storePR _ _ _ => .storePR
  | .storeAR _ _ => .storeAR
  | .storePI _ _ _ => .storePI
  | .storeAI _ _ => .storeAI
  | .haltR _ => .haltR
  | .haltI _ => .haltI
  | .halt => .halt

end Sys2Proof
end

