-- ==== Sys2Proof/WellFormed.lean ====
section
/-! DEFINITION. What makes terms of the syntax and the parameters well-formed. -/

namespace Sys2Proof

/-- The register address bytes that name something: 0 to 7, and 0xFF (10_state.md R17, R18). The bytes 8 to 254 are
invalid (R19). -/
abbrev ValidRegByte (a : Byte) : Prop := a.toNat ≤ 7 ∨ a = 0xFF

/-- An opcode map is injective and keeps the two entries the source fixes, MOV $x,#n = 0x02 and HALT = 0xFF
(30_encoding.md R69, 00_scope.md R8). -/
abbrev OpcodeMap.Legal (m : OpcodeMap) : Prop :=
  m.bytes.toList.Nodup ∧ m.opcode .movRI = 0x02 ∧ m.opcode .halt = 0xFF

/-- Parameters within the bounds the spec sets: a legal opcode map, and STACK_BASE at most 0xFF00, so that the stack
window fits inside memory (20_memory.md R44). -/
abbrev Params.Legal (p : Params) : Prop :=
  p.opcodeMap.Legal ∧ p.stackBase.toNat ≤ 0xFF00

/-- An instruction is well-formed under an opcode map when its opcode byte identifies it: no other form has that
byte (30_encoding.md R63). Its register operands are resolved, so nothing else can be wrong with it. -/
abbrev Instr.WellFormed (m : OpcodeMap) (i : Instr) : Prop :=
  ∀ f ∈ Form.all, m.opcode f = m.opcode i.form → f = i.form

/-- A program image fits the address space (20_memory.md R55). -/
abbrev ImageFits (image : List Byte) : Prop := image.length ≤ 65536

end Sys2Proof
end

