-- ==== Sys2Proof/Decode.lean ====
section
/-! DEFINITION. The encoding (30_encoding.md): byte order, register resolution, the default opcode map, the formats,
the decoder over any source of bytes, and the encoder. -/

namespace Sys2Proof

/-- `hi ++ lo`, that is `hi * 256 + lo` (00_scope.md R9). -/
def joinBytes (hi lo : Byte) : Addr := hi ++ lo

/-- `v[15:8]` (00_scope.md R9). -/
def highByte (v : Addr) : Byte := v.extractLsb' 8 8

/-- `v[7:0]` (00_scope.md R9). -/
def lowByte (v : Addr) : Byte := v.extractLsb' 0 8

/-- The default of the parameter OPCODE_MAP, the table of 30_encoding.md R69. Only MOV $x,#n = 0x02 and HALT = 0xFF
are the source's; the others are the spec's own choice (notes/assumptions/1.md). -/
def defaultOpcodeMap : OpcodeMap where
  bytes := #v[
    0x00, 0x01, 0x02, 0x03, 0x04, 0x05, 0x06, 0x07, 0x08, 0x09, 0x0A, 0x0B,
    0x0C, 0x0D, 0x0E, 0x0F, 0x10, 0x11, 0x12, 0x13, 0x14, 0x15, 0x16, 0x17,
    0x18, 0x19, 0x1A, 0x1B, 0x1C, 0x1D, 0x1E, 0x1F, 0x20, 0x21, 0x22, 0x23,
    0x24, 0x25, 0x26, 0x27, 0x28, 0x29, 0x2A, 0x2B, 0x2C, 0x2D, 0x2E, 0x2F,
    0x30, 0x31, 0xFD, 0xFE, 0xFF]

/-- The format of each form (30_encoding.md R69, column "format"). -/
def Form.format : Form → Format
  | .nop | .ret | .halt => .f0
  | .movRR | .andRR | .cmpRR | .addRR | .subRR | .mulRR | .divRR | .modRR | .pwrRR => .fRR
  | .movRI | .andRI | .cmpRI | .addRI | .subRI | .mulRI | .divRI | .modRI | .pwrRI => .fRI
  | .movRA => .fRA
  | .movRP => .fRP
  | .notR | .pushR | .popR | .incR | .decR | .sqrtR | .fsqrtR | .haltR => .fR
  | .jmpA | .jzA | .jnzA | .juA | .jnuA | .joA | .jnoA | .callA => .fA
  | .jmpP | .jzP | .jnzP | .juP | .jnuP | .joP | .jnoP | .callP => .fP
  | .pushI | .haltI => .fI
  | .storePR => .fPR
  | .storeAR => .fAR
  | .storePI => .fPI
  | .storeAI => .fAI

/-- The length of a format in bytes (30_encoding.md R68, column "length"). -/
def Format.length : Format → Nat
  | .f0 => 1
  | .fR | .fI => 2
  | .fRR | .fRI | .fA | .fP => 3
  | .fRA | .fRP | .fPR | .fAR | .fPI | .fAI => 4

/-- Where the register address bytes of a format stand, counted from the opcode byte, in fetch order
(30_encoding.md R68). -/
def Format.regOffsets : Format → List Nat
  | .f0 | .fI | .fA | .fAI => []
  | .fR | .fRI | .fRA => [1]
  | .fRR | .fP | .fPI => [1, 2]
  | .fRP | .fPR => [1, 2, 3]
  | .fAR => [3]

/-- The length of an instruction in bytes: its opcode alone fixes it (30_encoding.md R63). -/
def Instr.length (i : Instr) : Nat := i.form.format.length

/-- The form an opcode byte identifies, none for a byte the map does not assign (30_encoding.md R70). Under a map
that is not injective the first form in table order is taken (notes/assumptions/18.md). -/
def OpcodeMap.formOf (m : OpcodeMap) (op : Byte) : Option Form :=
  Form.all.find? fun f => m.opcode f == op

/-- Why bytes are no instruction (60_exceptions.md R138, steps 1 and 2). -/
inductive DecodeError where
  /-- An opcode byte that the opcode map does not assign (49_halt.md R133). -/
  | unknownOpcode (op : Byte)
  /-- A register address byte in 8..254 (30_encoding.md R65). -/
  | illegalRegister (a : Byte)
deriving DecidableEq, Repr

/-- `ResolveReg(a)` (30_encoding.md R65). -/
def resolveReg (a : Byte) : Except DecodeError Reg :=
  if a = 0xFF then .ok .sink
  else if h : a.toNat < 8 then .ok (.slot ⟨a.toNat, h⟩)
  else .error (.illegalRegister a)

/-! The decoder of 30_encoding.md R72 over any source of bytes: `next` is `FetchByte()`, and gives the next byte and
the source after it. -/

section Parse
variable {σ : Type} (next : σ → Byte × σ)

/-- `Fetch16()`: the high byte first (20_memory.md R42). Operand shape A. -/
def fetch16 (src : σ) : Addr × σ :=
  (joinBytes (next src).1 (next (next src).2).1, (next (next src).2).2)

/-- Operand shape R: `FetchByte()`, then `ResolveReg` at once (30_encoding.md R64, R65). -/
def fetchReg (src : σ) : Except DecodeError (Reg × σ) :=
  match resolveReg (next src).1 with
  | .error e => .error e
  | .ok r => .ok (r, (next src).2)

/-- Format `F_`. -/
def parse0 (i : Instr) (src : σ) : Except DecodeError (Instr × σ) := .ok (i, src)

/-- Format `F_R`. -/
def parseR (mk : Reg → Instr) (src : σ) : Except DecodeError (Instr × σ) := do
  let (x, src) ← fetchReg next src
  return (mk x, src)

/-- Format `F_I`. -/
def parseI (mk : Byte → Instr) (src : σ) : Except DecodeError (Instr × σ) :=
  .ok (mk (next src).1, (next src).2)

/-- Format `F_RR`, and the two registers of a pair (format `F_P`), the high one first. -/
def parseRR (mk : Reg → Reg → Instr) (src : σ) : Except DecodeError (Instr × σ) := do
  let (x, src) ← fetchReg next src
  let (y, src) ← fetchReg next src
  return (mk x y, src)

/-- Format `F_RI`: the register is resolved before the immediate is fetched (40_control_move.md R80). -/
def parseRI (mk : Reg → Byte → Instr) (src : σ) : Except DecodeError (Instr × σ) := do
  let (x, src) ← fetchReg next src
  return (mk x (next src).1, (next src).2)

/-- Format `F_A`. -/
def parseA (mk : Addr → Instr) (src : σ) : Except DecodeError (Instr × σ) :=
  .ok (mk (fetch16 next src).1, (fetch16 next src).2)

/-- Format `F_RA`. -/
def parseRA (mk : Reg → Addr → Instr) (src : σ) : Except DecodeError (Instr × σ) := do
  let (x, src) ← fetchReg next src
  return (mk x (fetch16 next src).1, (fetch16 next src).2)

/-- Formats `F_RP` and `F_PR`: three registers in byte order. -/
def parseRRR (mk : Reg → Reg → Reg → Instr) (src : σ) : Except DecodeError (Instr × σ) := do
  let (x, src) ← fetchReg next src
  let (y, src) ← fetchReg next src
  let (z, src) ← fetchReg next src
  return (mk x y z, src)

/-- Format `F_AR`: the register is resolved after the address bytes are fetched (48_store.md R127). -/
def parseAR (mk : Addr → Reg → Instr) (src : σ) : Except DecodeError (Instr × σ) := do
  let (x, after) ← fetchReg next (fetch16 next src).2
  return (mk (fetch16 next src).1 x, after)

/-- Format `F_PI`. -/
def parsePI (mk : Reg → Reg → Byte → Instr) (src : σ) : Except DecodeError (Instr × σ) := do
  let (x, src) ← fetchReg next src
  let (y, src) ← fetchReg next src
  return (mk x y (next src).1, (next src).2)

/-- Format `F_AI`. -/
def parseAI (mk : Addr → Byte → Instr) (src : σ) : Except DecodeError (Instr × σ) :=
  .ok (mk (fetch16 next src).1 (next (fetch16 next src).2).1, (next (fetch16 next src).2).2)

/-- The operands of a form, left to right (30_encoding.md R67, R72). -/
def parseOperands (f : Form) (src : σ) : Except DecodeError (Instr × σ) :=
  match f with
  | .nop => parse0 .nop src
  | .movRR => parseRR next .movRR src
  | .movRI => parseRI next .movRI src
  | .movRA => parseRA next .movRA src
  | .movRP => parseRRR next .movRP src
  | .notR => parseR next .notR src
  | .andRR => parseRR next .andRR src
  | .andRI => parseRI next .andRI src
  | .jmpA => parseA next .jmpA src
  | .jmpP => parseRR next .jmpP src
  | .jzA => parseA next .jzA src
  | .jzP => parseRR next .jzP src
  | .jnzA => parseA next .jnzA src
  | .jnzP => parseRR next .jnzP src
  | .juA => parseA next .juA src
  | .juP => parseRR next .juP src
  | .jnuA => parseA next .jnuA src
  | .jnuP => parseRR next .jnuP src
  | .joA => parseA next .joA src
  | .joP => parseRR next .joP src
  | .jnoA => parseA next .jnoA src
  | .jnoP => parseRR next .jnoP src
  | .cmpRI => parseRI next .cmpRI src
  | .cmpRR => parseRR next .cmpRR src
  | .pushR => parseR next .pushR src
  | .pushI => parseI next .pushI src
  | .popR => parseR next .popR src
  | .addRI => parseRI next .addRI src
  | .addRR => parseRR next .addRR src
  | .subRI => parseRI next .subRI src
  | .subRR => parseRR next .subRR src
  | .mulRI => parseRI next .mulRI src
  | .mulRR => parseRR next .mulRR src
  | .divRI => parseRI next .divRI src
  | .divRR => parseRR next .divRR src
  | .modRI => parseRI next .modRI src
  | .modRR => parseRR next .modRR src
  | .incR => parseR next .incR src
  | .decR => parseR next .decR src
  | .pwrRI => parseRI next .pwrRI src
  | .pwrRR => parseRR next .pwrRR src
  | .sqrtR => parseR next .sqrtR src
  | .fsqrtR => parseR next .fsqrtR src
  | .callA => parseA next .callA src
  | .callP => parseRR next .callP src
  | .ret => parse0 .ret src
  | .storePR => parseRRR next .storePR src
  | .storeAR => parseAR next .storeAR src
  | .storePI => parsePI next .storePI src
  | .storeAI => parseAI next .storeAI src
  | .haltR => parseR next .haltR src
  | .haltI => parseI next .haltI src
  | .halt => parse0 .halt src

/-- One instruction from a source of bytes: the opcode byte, then the operands of the form it identifies
(30_encoding.md R72). An unknown opcode is refused before any operand byte is fetched (49_halt.md R133). -/
def parse (m : OpcodeMap) (src : σ) : Except DecodeError (Instr × σ) :=
  match m.formOf (next src).1 with
  | none => .error (.unknownOpcode (next src).1)
  | some f => parseOperands next f (next src).2

end Parse

/-- Four bytes in memory order: the longest an instruction can be (30_encoding.md R63). -/
structure Window where
  b0 : Byte
  b1 : Byte
  b2 : Byte
  b3 : Byte
deriving DecidableEq, Repr

/-- Takes a window's first byte. No instruction reads past the fourth. -/
def Window.next (w : Window) : Byte × Window := (w.b0, ⟨w.b1, w.b2, w.b3, 0⟩)

/-- The window that starts with the given bytes, zero after them. -/
def Window.ofBytes (bytes : List Byte) : Window :=
  ⟨bytes.getD 0 0, bytes.getD 1 0, bytes.getD 2 0, bytes.getD 3 0⟩

/-- The bytes of a window in memory order. -/
def Window.toBytes (w : Window) : List Byte := [w.b0, w.b1, w.b2, w.b3]

/-- The instruction that four bytes start with under an opcode map, or why there is none. -/
def decode (m : OpcodeMap) (w : Window) : Except DecodeError Instr :=
  (parse Window.next m w).map Prod.fst

/-- The register address byte of an operand (30_encoding.md R65). -/
def Reg.toByte : Reg → Byte
  | .slot n => BitVec.ofNat 8 n.val
  | .sink => 0xFF

/-- The operand bytes of an instruction, in byte order (30_encoding.md R68). -/
def Instr.operandBytes : Instr → List Byte
  | .nop => []
  | .movRR x y => [x.toByte, y.toByte]
  | .movRI x n => [x.toByte, n]
  | .movRA x nn => [x.toByte, highByte nn, lowByte nn]
  | .movRP x y z => [x.toByte, y.toByte, z.toByte]
  | .notR x => [x.toByte]
  | .andRR x y => [x.toByte, y.toByte]
  | .andRI x n => [x.toByte, n]
  | .jmpA nn => [highByte nn, lowByte nn]
  | .jmpP x y => [x.toByte, y.toByte]
  | .jzA nn => [highByte nn, lowByte nn]
  | .jzP x y => [x.toByte, y.toByte]
  | .jnzA nn => [highByte nn, lowByte nn]
  | .jnzP x y => [x.toByte, y.toByte]
  | .juA nn => [highByte nn, lowByte nn]
  | .juP x y => [x.toByte, y.toByte]
  | .jnuA nn => [highByte nn, lowByte nn]
  | .jnuP x y => [x.toByte, y.toByte]
  | .joA nn => [highByte nn, lowByte nn]
  | .joP x y => [x.toByte, y.toByte]
  | .jnoA nn => [highByte nn, lowByte nn]
  | .jnoP x y => [x.toByte, y.toByte]
  | .cmpRI x n => [x.toByte, n]
  | .cmpRR x y => [x.toByte, y.toByte]
  | .pushR x => [x.toByte]
  | .pushI n => [n]
  | .popR x => [x.toByte]
  | .addRI x n => [x.toByte, n]
  | .addRR x y => [x.toByte, y.toByte]
  | .subRI x n => [x.toByte, n]
  | .subRR x y => [x.toByte, y.toByte]
  | .mulRI x n => [x.toByte, n]
  | .mulRR x y => [x.toByte, y.toByte]
  | .divRI x n => [x.toByte, n]
  | .divRR x y => [x.toByte, y.toByte]
  | .modRI x n => [x.toByte, n]
  | .modRR x y => [x.toByte, y.toByte]
  | .incR x => [x.toByte]
  | .decR x => [x.toByte]
  | .pwrRI x n => [x.toByte, n]
  | .pwrRR x y => [x.toByte, y.toByte]
  | .sqrtR x => [x.toByte]
  | .fsqrtR x => [x.toByte]
  | .callA nn => [highByte nn, lowByte nn]
  | .callP x y => [x.toByte, y.toByte]
  | .ret => []
  | .storePR x y z => [x.toByte, y.toByte, z.toByte]
  | .storeAR nn x => [highByte nn, lowByte nn, x.toByte]
  | .storePI x y n => [x.toByte, y.toByte, n]
  | .storeAI nn n => [highByte nn, lowByte nn, n]
  | .haltR x => [x.toByte]
  | .haltI n => [n]
  | .halt => []

/-- The bytes of an instruction under an opcode map: the opcode byte, then the operand bytes (30_encoding.md R63). -/
def encode (m : OpcodeMap) (i : Instr) : List Byte := m.opcode i.form :: i.operandBytes

/-- The bytes of a number as spec/opcode_table.json numbers an instruction's bits: bit 0 is the least significant
bit of the first byte. Every bit from `nbits` on is 0. -/
def tableWindow (nbits w : Nat) : Window :=
  let v := w % 2 ^ nbits
  ⟨BitVec.ofNat 8 v, BitVec.ofNat 8 (v / 2 ^ 8), BitVec.ofNat 8 (v / 2 ^ 16), BitVec.ofNat 8 (v / 2 ^ 24)⟩

/-- The instruction that the decoder reads, under the default opcode map, from an instruction whose bits are `w`. -/
def decodeTableWord (nbits w : Nat) : Option Instr :=
  match decode defaultOpcodeMap (tableWindow nbits w) with
  | .ok i => some i
  | .error _ => none

end Sys2Proof
end

