-- ==== Sys2Proof/Machine/Defaults.lean ====
section
/-! DEFINITION. The defaults of the parameters (00_scope.md R8). A default is what State.reset takes where the spec
leaves a parameter open; no statement rests on one. -/

namespace Sys2Proof.Machine

/-- The default of OPCODE_MAP (notes/assumptions/1.md), of STACK_BASE (notes/assumptions/2.md) and of SQRT_MAGIC
(notes/assumptions/6.md). DESIGN CHOICE: 00_scope.md R8 gives each as a default and leaves the parameter open. -/
def defaultParams : Params where
  opcodeMap := defaultOpcodeMap
  stackBase := 0xFF00
  sqrtMagic := 0x5F3759DF

/-- The defaults of REG_INIT, FLAGS_INIT and SP_INIT. DESIGN CHOICE: the source gives no value
(notes/assumptions/3.md, 4.md and 5.md). -/
def defaultInit : Init where
  regs := Vector.replicate 8 0
  flags := ⟨false, false, false⟩
  sp := 0

end Sys2Proof.Machine
end

