-- ==== Sys2Proof/Machine/State.lean ====
section
/-! DEFINITION. The machine's state (10_state.md R15), why a step can stop, and the state after reset. -/

namespace Sys2Proof.Machine

/-- Memory: the bytes that differ from what an unlisted address reads as, as (address, byte) pairs. -/
abbrev Memory := List Host.Cell

/-- What an unlisted address reads as: memory is zero-initialized at creation (20_memory.md R36). -/
def Memory.unlisted : Byte := 0

/-- The canonical form: addresses strictly rising, inside the 65536 bytes (20_memory.md R33), and no entry equal to
what an unlisted address reads as. Equal memories in this form are equal lists. -/
abbrev Memory.wf (m : Memory) : Prop :=
  m.Pairwise (fun c d => c.1 < d.1) ∧ ∀ c ∈ m, c.1 < 65536 ∧ c.2 ≠ Memory.unlisted

/-- The reply of the block's latest operation (00_scope.md R12). The MODEL's field: it carries what `STEP()` and
`LOAD` answer, since a step's outcome has no place for it (notes/assumptions/11.md). -/
inductive Reply where
  /-- No operation has replied yet: the instance has just been created. -/
  | idle
  /-- `LOAD` replied `ok` (20_memory.md R55). -/
  | ok
  /-- `STEP()` replied `Continue` (30_encoding.md R73). -/
  | cont
  /-- `STEP()` replied `Halt(code)` (30_encoding.md R73). -/
  | halt (code : Byte)
deriving DecidableEq, Repr

/-- The information the spec attaches to AbnormalTermination (60_exceptions.md R135). -/
inductive AbnormalInfo where
  /-- The opcode byte that the opcode map does not assign (49_halt.md R133). -/
  | unknownOpcode (op : Byte)
  /-- PWR_ZERO_OPERAND: PWR with a zero base or exponent (46_power_root.md R119). -/
  | pwrZeroOperand
deriving DecidableEq, Repr

/-- The information the spec attaches to UndefinedOperation (60_exceptions.md R135). -/
inductive UndefinedInfo where
  /-- DIV_BY_ZERO (45_arithmetic.md R106). -/
  | divByZero
  /-- MOD_BY_ZERO (45_arithmetic.md R106). -/
  | modByZero
deriving DecidableEq, Repr

/-- The fatal conditions (60_exceptions.md R135, R137). Each ends the run and leaves no state to read
(70_reset_and_hazards.md R162), so a fault carries none (notes/assumptions/14.md). -/
inductive Fault where
  /-- AbnormalTermination, code 6: raised by the fetch of an unknown opcode and by PWR with a zero operand. Safe:
  the spec's own condition. -/
  | abnormalTermination (info : AbnormalInfo)
  /-- IllegalRegister, code 11: raised at decode by a register address byte in 8..254. Safe: the spec's own
  condition. -/
  | illegalRegister (a : Byte)
  /-- UndefinedOperation, no code: raised by DIV and MOD with divisor 0. Safe: the spec's model outcome for what the
  source leaves undefined. -/
  | undefinedOperation (info : UndefinedInfo)
  /-- ProgramTooLarge: raised by `LOAD` alone, before any tick (20_memory.md R55). Safe: the spec's own condition. -/
  | programTooLarge
deriving DecidableEq, Repr

/-- Why the model gives no meaning. -/
inductive Refusal where
  /-- An instruction with no meaning yet: raised by exec's arms alone. Safe. None is left. -/
  | notModelled (mnemonic : String)
  /-- `STEP()` after a `Halt` reply (93_implementation_defined.md section 1, 10_state.md R30): raised by step. Safe:
  the spec gives it no meaning (notes/assumptions/12.md). -/
  | stepAfterHalt
  /-- A `LOAD` that is not the first operation on the instance (70_reset_and_hazards.md R153): raised by load. Safe:
  the spec says a model refuses it (notes/assumptions/13.md). -/
  | secondLoad
deriving DecidableEq, Repr

/-- The architectural state of the core (10_state.md R15), and two fields of the model's own. -/
structure State where
  /-- The 65536 bytes of memory (20_memory.md R33). -/
  mem : Memory
  /-- The program counter (10_state.md R21). -/
  pc : Addr
  /-- The stack pointer (10_state.md R22). -/
  sp : Byte
  /-- The registers x[0] to x[7] (10_state.md R16). -/
  regs : Vector Byte 8
  /-- The flags (10_state.md R23). -/
  flags : Flags
  /-- The MODEL's own: the parameters the machine was built with (00_scope.md R8). No step changes them. -/
  params : Params
  /-- The MODEL's own: the reply of the latest operation (00_scope.md R12). -/
  reply : Reply
deriving DecidableEq, Repr

/-- The creation of an instance with any parameters (70_reset_and_hazards.md R151): every byte of memory 0, pc = 0,
and sp, the registers and the flags at their parameters (10_state.md R31). -/
def State.create (p : Params) (init : Init) : State where
  mem := []
  pc := 0
  sp := init.sp
  regs := init.regs
  flags := init.flags
  params := p
  reply := .idle

/-- The machine right after reset: an instance created with the default parameters. The values of sp, the registers,
the flags and the parameters are DESIGN CHOICE (notes/assumptions/1.md to 6.md); pc and memory are the spec's. -/
def State.reset : State := State.create defaultParams defaultInit

end Sys2Proof.Machine
end

