-- ==== Sys2Proof/Machine/Memory.lean ====
section
/-! DEFINITION. The memory array's two operations (20_memory.md section 1), on lists of cells in canonical form. -/

namespace Sys2Proof.Machine

/-- The byte a list of cells holds at an address. -/
def cellAt : List Host.Cell → Nat → Byte
  | [], _ => Memory.unlisted
  | c :: rest, a => if c.1 = a then c.2 else cellAt rest a

/-- A list of cells without the entries of one address. -/
def eraseCell (cells : List Host.Cell) (a : Nat) : List Host.Cell :=
  cells.filter fun c => c.1 != a

/-- A cell put before the first cell of a higher address. -/
def insertCell (new : Host.Cell) : List Host.Cell → List Host.Cell
  | [] => [new]
  | c :: rest => if new.1 < c.1 then new :: c :: rest else c :: insertCell new rest

/-- `MemRead(addr, 1)` (20_memory.md R38). -/
def Memory.read (m : Memory) (a : Addr) : Byte := cellAt m a.toNat

/-- `MemWrite(addr, 1, v)` (20_memory.md R39). Writing what an unlisted address reads as removes the entry. -/
def Memory.write (m : Memory) (a : Addr) (v : Byte) : Memory :=
  if v = Memory.unlisted then eraseCell m a.toNat
  else insertCell (a.toNat, v) (eraseCell m a.toNat)

/-- Bytes put at consecutive addresses from `a` on, wrapping from 0xFFFF to 0x0000. -/
def Memory.writeBytes (m : Memory) (a : Addr) : List Byte → Memory
  | [] => m
  | v :: rest => Memory.writeBytes (m.write a v) (a + 1) rest

end Sys2Proof.Machine
end

