-- ==== Sys2Proof/Machine/Ops.lean ====
section
/-! DEFINITION. The named operations over memory, registers, stack and the ends of a tick (00_scope.md R10). -/

namespace Sys2Proof.Machine

/-! One function per field that an operation replaces. -/

def State.setMem (s : State) (m : Memory) : State := { s with mem := m }
def State.setPc (s : State) (a : Addr) : State := { s with pc := a }
def State.setSp (s : State) (v : Byte) : State := { s with sp := v }
def State.setRegs (s : State) (r : Vector Byte 8) : State := { s with regs := r }
def State.setFlags (s : State) (f : Flags) : State := { s with flags := f }
def State.setReply (s : State) (r : Reply) : State := { s with reply := r }

/-! Registers. -/

/-- `x[a]`: slot a, or 0 for the sink (10_state.md R17, R18). -/
def State.readReg (s : State) : Reg → Byte
  | .slot n => s.regs.get n
  | .sink => 0

/-- `x[a] <- v`: replaces slot a, or discards v for the sink (10_state.md R17, R18). -/
def State.writeReg (s : State) (r : Reg) (v : Byte) : State :=
  match r with
  | .slot n => s.setRegs (s.regs.set n.val v n.isLt)
  | .sink => s

/-! Memory. -/

/-- `MemRead(addr, 1)` (20_memory.md R38). -/
def State.memRead (s : State) (a : Addr) : Byte := s.mem.read a

/-- `MemWrite(addr, 1, v)` (20_memory.md R39). It does not move pc (R40). -/
def State.memWrite (s : State) (a : Addr) (v : Byte) : State := s.setMem (s.mem.write a v)

/-- `FetchByte()`: the byte at pc, and pc incremented modulo 65536 (20_memory.md R41). -/
def fetchByte (s : State) : Byte × State := (s.memRead s.pc, s.setPc (s.pc + 1))

/-! The stack, a view of memory (20_memory.md section 4). -/

/-- `StackAddr(s) = STACK_BASE + (255 - s)` (20_memory.md R44). A base above 0xFF00, which R44 rules out, wraps
modulo 65536 (92_eei_decisions.md D30). -/
def stackAddr (p : Params) (sp : Byte) : Addr := p.stackBase + BitVec.ofNat 16 (255 - sp.toNat)

/-- The stack slot of the current sp: where the next push writes. -/
def State.stackSlot (s : State) : Addr := stackAddr s.params s.sp

/-- `Push8(v)`: write at the slot, then increment sp modulo 256 (20_memory.md R45, R50). -/
def push8 (s : State) (v : Byte) : State := (s.memWrite s.stackSlot v).setSp (s.sp + 1)

/-- `Pop8()`: decrement sp modulo 256, then read the slot (20_memory.md R46, R50). -/
def pop8 (s : State) : Byte × State :=
  ((s.setSp (s.sp - 1)).memRead (s.setSp (s.sp - 1)).stackSlot, s.setSp (s.sp - 1))

/-- `Push16(v)`: the high byte first, then the low byte (20_memory.md R47). -/
def push16 (s : State) (v : Addr) : State := push8 (push8 s (highByte v)) (lowByte v)

/-- `Pop16()`: the low byte first, then the high byte (20_memory.md R48). -/
def pop16 (s : State) : Addr × State :=
  (joinBytes (pop8 (pop8 s).2).1 (pop8 s).1, (pop8 (pop8 s).2).2)

/-- `Peek()`: the byte the latest push wrote. No instruction uses it (20_memory.md R49). -/
def peek (s : State) : Byte := s.memRead (stackAddr s.params (s.sp - 1))

/-! The ends of a tick. -/

/-- `raise C(info)`: taking an exception. Trap entry does not exist on this core (60_exceptions.md R139): nothing is
saved, no mode changes, control goes nowhere, and the run ends (30_encoding.md R74). There is no return from one
either (60_exceptions.md R140). -/
def raise (c : Fault) : Host.Outcome State Fault Refusal := .fault c

/-- `halt(code)`: the tick replies `Halt(code)`, and the state stays readable (30_encoding.md R73,
70_reset_and_hazards.md R161). -/
def haltWith (code : Byte) (s : State) : Host.Outcome State Fault Refusal := .next (s.setReply (.halt code))

/-- The condition a decoding error raises (60_exceptions.md R135). -/
def faultOfDecode : DecodeError → Fault
  | .unknownOpcode op => .abnormalTermination (.unknownOpcode op)
  | .illegalRegister a => .illegalRegister a

end Sys2Proof.Machine
end

