-- ==== Sys2Proof/Machine/Flags.lean ====
section
/-! DEFINITION. Every flag computation of the spec (10_state.md section 5), and the conditions of the jumps. -/

namespace Sys2Proof.Machine

/-- `UpdateFlags(r)` on a wide signed integer (10_state.md R24). -/
def updateFlags (r : Int) : Flags where
  zero := decide (r = 0)
  underflow := decide (r < 0)
  overflow := decide (255 < r)

/-- `trunc8(v)`, that is `v mod 256` (00_scope.md R9). -/
def trunc8 (v : Int) : Byte := BitVec.ofInt 8 v

/-- PWR's flags: only overflow can be set (46_power_root.md R119). -/
def pwrFlags (overflowed : Bool) : Flags where
  zero := false
  underflow := false
  overflow := overflowed

/-- SQRT's and FSQRT's flags: only zero can be set (46_power_root.md R121, R122). -/
def rootFlags (isZero : Bool) : Flags where
  zero := isZero
  underflow := false
  overflow := false

/-- The flag conditions a jump tests (42_jump.md R86). -/
inductive Cond where
  | always
  | zero
  | notZero
  | underflow
  | notUnderflow
  | overflow
  | notOverflow
deriving DecidableEq, Repr

/-- Whether a condition holds of the flags (42_jump.md R86). -/
def condHolds (c : Cond) (f : Flags) : Bool :=
  match c with
  | .always => true
  | .zero => f.zero
  | .notZero => !f.zero
  | .underflow => f.underflow
  | .notUnderflow => !f.underflow
  | .overflow => f.overflow
  | .notOverflow => !f.overflow

end Sys2Proof.Machine
end

