-- ==== Sys2Proof/Machine/Operands.lean ====
section
/-! DEFINITION. The operand forms (30_encoding.md R64): what a resolved operand gives an instruction. -/

namespace Sys2Proof.Machine

/-- Shape R: the register's byte, unsigned (30_encoding.md R64). -/
def regOperand (s : State) (r : Reg) : Byte := s.readReg r

/-- Shape I: the byte as it is, neither extended nor scaled (30_encoding.md R66). -/
def immOperand (n : Byte) : Byte := n

/-- Shape A: the 16-bit address as it is (20_memory.md R43, 30_encoding.md R66). -/
def absAddress (nn : Addr) : Addr := nn

/-- Shape P: `x[a] ++ x[b]`, the first register giving the high byte (20_memory.md R43). -/
def pairAddress (s : State) (a b : Reg) : Addr := joinBytes (s.readReg a) (s.readReg b)

end Sys2Proof.Machine
end

