-- ==== Sys2Proof/Machine/Arithmetic.lean ====
section
/-! DEFINITION. ADD, SUB, MUL, DIV, MOD, INC, DEC (45_arithmetic.md). -/

namespace Sys2Proof.Machine

/-- The end of every arithmetic form: the flags of the wide result, then its low byte stored in the destination
(45_arithmetic.md R106). -/
def storeWide (x : Reg) (wide : Int) (s : State) : Host.Outcome State Fault Refusal :=
  .next ((s.setFlags (updateFlags wide)).writeReg x (trunc8 wide))

/-- The wide sum of two unsigned bytes (45_arithmetic.md R107). SUB computes it too (R109). -/
def wideSum (a b : Byte) : Int := ((a.toNat + b.toNat : Nat) : Int)

/-- The wide product (45_arithmetic.md R111). -/
def wideProduct (a b : Byte) : Int := ((a.toNat * b.toNat : Nat) : Int)

/-- `floor((2*a + b) / (2*b))`: a / b rounded to the nearest integer, ties away from zero (45_arithmetic.md R113). -/
def roundedQuotient (a b : Byte) : Int := (((2 * a.toNat + b.toNat) / (2 * b.toNat) : Nat) : Int)

/-- `a mod b`, unsigned (45_arithmetic.md R115). -/
def wideRemainder (a b : Byte) : Int := ((a.toNat % b.toNat : Nat) : Int)

/-- DIV: the rounded quotient; a zero divisor is fatal and writes nothing (45_arithmetic.md R113). -/
def divide (x : Reg) (b : Byte) (s : State) : Host.Outcome State Fault Refusal :=
  if b = 0 then raise (.undefinedOperation .divByZero)
  else storeWide x (roundedQuotient (s.readReg x) b) s

/-- MOD: the remainder; a zero modulus is fatal and writes nothing (45_arithmetic.md R115). -/
def modulo (x : Reg) (b : Byte) (s : State) : Host.Outcome State Fault Refusal :=
  if b = 0 then raise (.undefinedOperation .modByZero)
  else storeWide x (wideRemainder (s.readReg x) b) s

/-- INC's value for UpdateFlags: the sentinel 256 when the byte wraps, else the new byte (45_arithmetic.md R117). -/
def incWide (a : Byte) : Int := if a = 255 then 256 else ((a + 1).toNat : Int)

/-- DEC's value for UpdateFlags: the sentinel -1 when the byte wraps, else the new byte (45_arithmetic.md R118). -/
def decWide (a : Byte) : Int := if a = 0 then -1 else ((a - 1).toNat : Int)

/-- ADD $x,#n (45_arithmetic.md R107). -/
def execAddRI (x : Reg) (n : Byte) (s : State) : Host.Outcome State Fault Refusal :=
  storeWide x (wideSum (s.readReg x) (immOperand n)) s

/-- ADD $x,$y (45_arithmetic.md R108). -/
def execAddRR (x : Reg) (y : Reg) (s : State) : Host.Outcome State Fault Refusal :=
  storeWide x (wideSum (s.readReg x) (regOperand s y)) s

/-- SUB $x,#n (45_arithmetic.md R109). SUB adds: the observed behaviour, reproduced as the rule asks. -/
def execSubRI (x : Reg) (n : Byte) (s : State) : Host.Outcome State Fault Refusal :=
  storeWide x (wideSum (s.readReg x) (immOperand n)) s

/-- SUB $x,$y (45_arithmetic.md R110). SUB adds: the observed behaviour, reproduced as the rule asks. -/
def execSubRR (x : Reg) (y : Reg) (s : State) : Host.Outcome State Fault Refusal :=
  storeWide x (wideSum (s.readReg x) (regOperand s y)) s

/-- MUL $x,#n (45_arithmetic.md R111). -/
def execMulRI (x : Reg) (n : Byte) (s : State) : Host.Outcome State Fault Refusal :=
  storeWide x (wideProduct (s.readReg x) (immOperand n)) s

/-- MUL $x,$y (45_arithmetic.md R112). -/
def execMulRR (x : Reg) (y : Reg) (s : State) : Host.Outcome State Fault Refusal :=
  storeWide x (wideProduct (s.readReg x) (regOperand s y)) s

/-- DIV $x,#n (45_arithmetic.md R113). -/
def execDivRI (x : Reg) (n : Byte) (s : State) : Host.Outcome State Fault Refusal :=
  divide x (immOperand n) s

/-- DIV $x,$y (45_arithmetic.md R114). -/
def execDivRR (x : Reg) (y : Reg) (s : State) : Host.Outcome State Fault Refusal :=
  divide x (regOperand s y) s

/-- MOD $x,#n (45_arithmetic.md R115). -/
def execModRI (x : Reg) (n : Byte) (s : State) : Host.Outcome State Fault Refusal :=
  modulo x (immOperand n) s

/-- MOD $x,$y (45_arithmetic.md R116). -/
def execModRR (x : Reg) (y : Reg) (s : State) : Host.Outcome State Fault Refusal :=
  modulo x (regOperand s y) s

/-- INC $x (45_arithmetic.md R117). The sentinel is never stored. -/
def execIncR (x : Reg) (s : State) : Host.Outcome State Fault Refusal :=
  .next ((s.setFlags (updateFlags (incWide (s.readReg x)))).writeReg x (s.readReg x + 1))

/-- DEC $x (45_arithmetic.md R118). The sentinel is never stored. -/
def execDecR (x : Reg) (s : State) : Host.Outcome State Fault Refusal :=
  .next ((s.setFlags (updateFlags (decWide (s.readReg x)))).writeReg x (s.readReg x - 1))

end Sys2Proof.Machine
end

