-- ==== Sys2Proof/Machine/Bitwise.lean ====
section
/-! DEFINITION. NOT and AND (41_bitwise.md). Neither writes a flag. -/

namespace Sys2Proof.Machine

/-- NOT $x (41_bitwise.md R83). -/
def execNotR (x : Reg) (s : State) : Host.Outcome State Fault Refusal :=
  .next (s.writeReg x (~~~ s.readReg x))

/-- AND $x,$y (41_bitwise.md R84). -/
def execAndRR (x : Reg) (y : Reg) (s : State) : Host.Outcome State Fault Refusal :=
  .next (s.writeReg x (s.readReg x &&& regOperand s y))

/-- AND $x,#n (41_bitwise.md R85). -/
def execAndRI (x : Reg) (n : Byte) (s : State) : Host.Outcome State Fault Refusal :=
  .next (s.writeReg x (s.readReg x &&& immOperand n))

end Sys2Proof.Machine
end

