-- ==== Sys2Proof/Machine/CallReturn.lean ====
section
/-! DEFINITION. CALL and RET (47_call_return.md). -/

namespace Sys2Proof.Machine

/-- CALL: the address after the instruction is pushed, then pc goes to the target (47_call_return.md R123). -/
def call (target : Addr) (s : State) : Host.Outcome State Fault Refusal := .next ((push16 s s.pc).setPc target)

/-- CALL [#nn] (47_call_return.md R123). -/
def execCallA (nn : Addr) (s : State) : Host.Outcome State Fault Refusal :=
  call (absAddress nn) s

/-- CALL [$x,$y] (47_call_return.md R124). The target is formed before the push. -/
def execCallP (x : Reg) (y : Reg) (s : State) : Host.Outcome State Fault Refusal :=
  call (pairAddress s x y) s

/-- RET (47_call_return.md R125). -/
def execRet (s : State) : Host.Outcome State Fault Refusal :=
  .next ((pop16 s).2.setPc (pop16 s).1)

end Sys2Proof.Machine
end

