-- ==== Sys2Proof/Machine/Compare.lean ====
section
/-! DEFINITION. CMP (43_compare.md): it adds, and writes the flags only. -/

namespace Sys2Proof.Machine

/-- CMP: the flags of the wide sum, and no store (43_compare.md R101). -/
def compareBytes (a b : Byte) (s : State) : Host.Outcome State Fault Refusal :=
  .next (s.setFlags (updateFlags ((a.toNat + b.toNat : Nat) : Int)))

/-- CMP $x,#n (43_compare.md R101). -/
def execCmpRI (x : Reg) (n : Byte) (s : State) : Host.Outcome State Fault Refusal :=
  compareBytes (s.readReg x) (immOperand n) s

/-- CMP $x,$y (43_compare.md R102). -/
def execCmpRR (x : Reg) (y : Reg) (s : State) : Host.Outcome State Fault Refusal :=
  compareBytes (s.readReg x) (regOperand s y) s

end Sys2Proof.Machine
end

