-- ==== Sys2Proof/Machine/ControlMove.lean ====
section
/-! DEFINITION. NOP and MOV (40_control_move.md). -/

namespace Sys2Proof.Machine

/-- NOP (40_control_move.md R78). pc has already advanced past the opcode. -/
def execNop (s : State) : Host.Outcome State Fault Refusal :=
  .next s

/-- MOV $x,$y (40_control_move.md R79). -/
def execMovRR (x : Reg) (y : Reg) (s : State) : Host.Outcome State Fault Refusal :=
  .next (s.writeReg x (regOperand s y))

/-- MOV $x,#n (40_control_move.md R80). -/
def execMovRI (x : Reg) (n : Byte) (s : State) : Host.Outcome State Fault Refusal :=
  .next (s.writeReg x (immOperand n))

/-- MOV $x,[#nn] (40_control_move.md R81). -/
def execMovRA (x : Reg) (nn : Addr) (s : State) : Host.Outcome State Fault Refusal :=
  .next (s.writeReg x (s.memRead (absAddress nn)))

/-- MOV $x,[$y,$z] (40_control_move.md R82). The address is formed from the old values. -/
def execMovRP (x : Reg) (y : Reg) (z : Reg) (s : State) : Host.Outcome State Fault Refusal :=
  .next (s.writeReg x (s.memRead (pairAddress s y z)))

end Sys2Proof.Machine
end

