-- ==== Sys2Proof/Machine/Halt.lean ====
section
/-! DEFINITION. HALT (49_halt.md). Nothing is written but the reply (notes/assumptions/11.md). -/

namespace Sys2Proof.Machine

/-- HALT $x (49_halt.md R132). -/
def execHaltR (x : Reg) (s : State) : Host.Outcome State Fault Refusal :=
  haltWith (regOperand s x) s

/-- HALT #n (49_halt.md R131). -/
def execHaltI (n : Byte) (s : State) : Host.Outcome State Fault Refusal :=
  haltWith (immOperand n) s

/-- HALT (49_halt.md R130). -/
def execHalt (s : State) : Host.Outcome State Fault Refusal :=
  haltWith 0 s

end Sys2Proof.Machine
end

