-- ==== Sys2Proof/Machine/Jump.lean ====
section
/-! DEFINITION. The jumps (42_jump.md). -/

namespace Sys2Proof.Machine

/-- Every jump: pc goes to the target when the condition holds, and keeps the fall-through address otherwise; nothing
else changes (42_jump.md R86). -/
def jumpIf (c : Cond) (target : Addr) (s : State) : Host.Outcome State Fault Refusal :=
  .next (if condHolds c s.flags then s.setPc target else s)

/-- JMP [#nn] (42_jump.md R87). -/
def execJmpA (nn : Addr) (s : State) : Host.Outcome State Fault Refusal :=
  jumpIf .always (absAddress nn) s

/-- JMP [$x,$y] (42_jump.md R88). -/
def execJmpP (x : Reg) (y : Reg) (s : State) : Host.Outcome State Fault Refusal :=
  jumpIf .always (pairAddress s x y) s

/-- JZ [#nn] (42_jump.md R89). -/
def execJzA (nn : Addr) (s : State) : Host.Outcome State Fault Refusal :=
  jumpIf .zero (absAddress nn) s

/-- JZ [$x,$y] (42_jump.md R90). -/
def execJzP (x : Reg) (y : Reg) (s : State) : Host.Outcome State Fault Refusal :=
  jumpIf .zero (pairAddress s x y) s

/-- JNZ [#nn] (42_jump.md R91). -/
def execJnzA (nn : Addr) (s : State) : Host.Outcome State Fault Refusal :=
  jumpIf .notZero (absAddress nn) s

/-- JNZ [$x,$y] (42_jump.md R92). -/
def execJnzP (x : Reg) (y : Reg) (s : State) : Host.Outcome State Fault Refusal :=
  jumpIf .notZero (pairAddress s x y) s

/-- JU [#nn] (42_jump.md R93). -/
def execJuA (nn : Addr) (s : State) : Host.Outcome State Fault Refusal :=
  jumpIf .underflow (absAddress nn) s

/-- JU [$x,$y] (42_jump.md R94). -/
def execJuP (x : Reg) (y : Reg) (s : State) : Host.Outcome State Fault Refusal :=
  jumpIf .underflow (pairAddress s x y) s

/-- JNU [#nn] (42_jump.md R95). -/
def execJnuA (nn : Addr) (s : State) : Host.Outcome State Fault Refusal :=
  jumpIf .notUnderflow (absAddress nn) s

/-- JNU [$x,$y] (42_jump.md R96). -/
def execJnuP (x : Reg) (y : Reg) (s : State) : Host.Outcome State Fault Refusal :=
  jumpIf .notUnderflow (pairAddress s x y) s

/-- JO [#nn] (42_jump.md R97). -/
def execJoA (nn : Addr) (s : State) : Host.Outcome State Fault Refusal :=
  jumpIf .overflow (absAddress nn) s

/-- JO [$x,$y] (42_jump.md R98). -/
def execJoP (x : Reg) (y : Reg) (s : State) : Host.Outcome State Fault Refusal :=
  jumpIf .overflow (pairAddress s x y) s

/-- JNO [#nn] (42_jump.md R99). -/
def execJnoA (nn : Addr) (s : State) : Host.Outcome State Fault Refusal :=
  jumpIf .notOverflow (absAddress nn) s

/-- JNO [$x,$y] (42_jump.md R100). -/
def execJnoP (x : Reg) (y : Reg) (s : State) : Host.Outcome State Fault Refusal :=
  jumpIf .notOverflow (pairAddress s x y) s

end Sys2Proof.Machine
end

