-- ==== Sys2Proof/Machine/Binary32.lean ====
section
/-! DEFINITION. The binary32 arithmetic of SQRT (46_power_root.md R121), exact on integers: an IEEE-754 value is an
integer times a power of two, an infinity or no number, and each operation is exact and then rounded to nearest, ties
to even (93_implementation_defined.md K2). The sign of a zero is not kept: no result of SQRT depends on it
(notes/assumptions/7.md). -/

namespace Sys2Proof.Machine

/-- A binary32 value. `fin m e` is `m * 2^e`. -/
inductive Binary32 where
  | fin (m : Int) (e : Int)
  | inf (neg : Bool)
  | nan
deriving DecidableEq, Repr

/-- The quotient of `n` by `2^drop`, rounded to the nearest integer, ties to even. -/
def roundDropping (n drop : Nat) : Nat :=
  let q := n / 2 ^ drop
  let r := n % 2 ^ drop
  if 2 ^ drop < 2 * r ∨ (2 * r = 2 ^ drop ∧ q % 2 = 1) then q + 1 else q

/-- How many low bits of a mantissa `n` with exponent `e` a binary32 value has no room for: those past the leading 24
bits, and those below 2^-149. -/
def dropCount (n : Nat) (e : Int) : Nat := (max (((Nat.log2 n + 1 : Nat) : Int) - 24) (-149 - e)).toNat

/-- A rounded mantissa with its sign: an infinity from 2^128 on. -/
def packBinary32 (neg : Bool) (q : Nat) (e : Int) : Binary32 :=
  if q ≠ 0 ∧ 128 ≤ ((Nat.log2 q : Nat) : Int) + e then .inf neg
  else .fin (if neg then -(q : Int) else (q : Int)) e

/-- `m * 2^e` rounded to the nearest binary32 value, ties to even. -/
def roundBinary32 (m : Int) (e : Int) : Binary32 :=
  let drop := dropCount m.natAbs e
  packBinary32 (decide (m < 0)) (roundDropping m.natAbs drop) (e + drop)

/-- Whether a value is below zero. -/
def Binary32.isNeg : Binary32 → Bool
  | .fin m _ => decide (m < 0)
  | .inf neg => neg
  | .nan => false

/-- The product, rounded. Infinity times zero is no number. -/
def mulBinary32 : Binary32 → Binary32 → Binary32
  | .fin m e, .fin m' e' => roundBinary32 (m * m') (e + e')
  | .inf neg, .fin m e => if m = 0 then .nan else .inf (neg != (Binary32.fin m e).isNeg)
  | .fin m e, .inf neg => if m = 0 then .nan else .inf (neg != (Binary32.fin m e).isNeg)
  | .inf neg, .inf neg' => .inf (neg != neg')
  | .nan, _ => .nan
  | _, .nan => .nan

/-- `1.5 - a`, rounded: `1.5` is `3 * 2^-1`. -/
def threeHalvesMinus : Binary32 → Binary32
  | .fin m e =>
    let low := min e (-1)
    roundBinary32 (3 * 2 ^ (-1 - low).toNat - m * 2 ^ (e - low).toNat) low
  | .inf neg => .inf (!neg)
  | .nan => .nan

/-- `bits32(float32(v))` for a byte: its leading one at bit 23, the biased exponent above it (IEEE-754, K2). -/
def bitsOfByte (v : Byte) : BitVec 32 :=
  if v = 0 then 0
  else
    let top := Nat.log2 v.toNat
    BitVec.ofNat 32 ((top + 127) * 2 ^ 23 + (v.toNat * 2 ^ (23 - top) - 2 ^ 23))

/-- A binary32 value from its sign, biased exponent and fraction (IEEE-754, K2). -/
def binary32OfFields (neg : Bool) (expo frac : Nat) : Binary32 :=
  if expo = 255 then (if frac = 0 then .inf neg else .nan)
  else if expo = 0 then .fin (if neg then -(frac : Int) else (frac : Int)) (-149)
  else .fin (if neg then -((2 ^ 23 + frac : Nat) : Int) else ((2 ^ 23 + frac : Nat) : Int)) ((expo : Int) - 150)

/-- `float32_from_bits(i)`: sign, biased exponent, fraction (IEEE-754, K2). -/
def binary32OfBits (i : BitVec 32) : Binary32 :=
  binary32OfFields (decide (2 ^ 31 ≤ i.toNat)) (i.toNat / 2 ^ 23 % 256) (i.toNat % 2 ^ 23)

/-- `round_half_away(1 / y)`: the exact reciprocal, rounded to the nearest integer, ties away from zero; none where
there is no such integer, for a zero and for no number (notes/assumptions/7.md and 8.md). -/
def roundReciprocal : Binary32 → Option Int
  | .fin m e =>
    if m = 0 then none
    else
      let num := 2 ^ (-e).toNat
      let den := m.natAbs * 2 ^ e.toNat
      let r := (2 * num + den) / (2 * den)
      some (if m < 0 then -(r : Int) else (r : Int))
  | .inf _ => some 0
  | .nan => none

/-- SQRT's integer r (46_power_root.md R121): the fast inverse square root with one Newton step, then the reciprocal
rounded. `h` is `float32(0.5 * v)`, exact. -/
def sqrtRounded (magic : BitVec 32) (v : Byte) : Option Int :=
  let h := Binary32.fin (v.toNat : Int) (-1)
  let y := binary32OfBits (magic - (bitsOfByte v >>> 1))
  roundReciprocal (mulBinary32 y (threeHalvesMinus (mulBinary32 (mulBinary32 h y) y)))

end Sys2Proof.Machine
end

