-- ==== Sys2Proof/Machine/PowerRoot.lean ====
section
/-! DEFINITION. PWR, SQRT, FSQRT (46_power_root.md). -/

namespace Sys2Proof.Machine

/-- PWR's overflow test, `e * ln(b) > 5.54`, as the exact test `b^e >= 255` that 46_power_root.md R119 gives for it
(UNVERIFIED: notes/assumptions/19.md). -/
def pwrOverflow (b e : Byte) : Bool := decide (255 ≤ b.toNat ^ e.toNat)

/-- The byte PWR stores: `b^e mod 256` below 2^31, and the free value PWR_LARGE from there on
(46_power_root.md R119, notes/assumptions/9.md). -/
def pwrByte (b e : Byte) : Byte :=
  if b.toNat ^ e.toNat < 2 ^ 31 then BitVec.ofNat 8 (b.toNat ^ e.toNat) else Config.pwrLarge b e

/-- PWR: a zero base or exponent is fatal before anything is written (46_power_root.md R119). -/
def power (x : Reg) (e : Byte) (s : State) : Host.Outcome State Fault Refusal :=
  if s.readReg x = 0 ∨ e = 0 then raise (.abnormalTermination .pwrZeroOperand)
  else .next ((s.setFlags (pwrFlags (pwrOverflow (s.readReg x) e))).writeReg x (pwrByte (s.readReg x) e))

/-- The nearest integer to the square root of a byte: the number of half-integers k + 1/2 below it. No root of an
integer is a half-integer (46_power_root.md R122). -/
def fsqrtRounded (v : Byte) : Nat :=
  ((List.range 16).filter fun k => (2 * k + 1) ^ 2 < 4 * v.toNat).length

/-- The byte SQRT stores: the rounded reciprocal's low byte, a free value where the reciprocal is no number or is
infinite (46_power_root.md R121, notes/assumptions/8.md). -/
def sqrtByte (magic : BitVec 32) (v : Byte) : Byte :=
  match sqrtRounded magic v with
  | some r => trunc8 r
  | none => Config.sqrtNoInteger magic v

/-- The end of both roots: the zero flag, the other flags false, and the byte stored (46_power_root.md R121, R122). -/
def storeRoot (x : Reg) (isZero : Bool) (v : Byte) (s : State) : Host.Outcome State Fault Refusal :=
  .next ((s.setFlags (rootFlags isZero)).writeReg x v)

/-- PWR $x,#n (46_power_root.md R119). -/
def execPwrRI (x : Reg) (n : Byte) (s : State) : Host.Outcome State Fault Refusal :=
  power x (immOperand n) s

/-- PWR $x,$y (46_power_root.md R120). -/
def execPwrRR (x : Reg) (y : Reg) (s : State) : Host.Outcome State Fault Refusal :=
  power x (regOperand s y) s

/-- SQRT $x (46_power_root.md R121). The zero flag is of the stored byte. -/
def execSqrtR (x : Reg) (s : State) : Host.Outcome State Fault Refusal :=
  storeRoot x (sqrtByte s.params.sqrtMagic (s.readReg x) == 0) (sqrtByte s.params.sqrtMagic (s.readReg x)) s

/-- FSQRT $x (46_power_root.md R122). The zero flag is of the rounded value before truncation. -/
def execFsqrtR (x : Reg) (s : State) : Host.Outcome State Fault Refusal :=
  storeRoot x (fsqrtRounded (s.readReg x) == 0) (trunc8 (fsqrtRounded (s.readReg x) : Int)) s

end Sys2Proof.Machine
end

