-- ==== Sys2Proof/Machine/Stack.lean ====
section
/-! DEFINITION. PUSH and POP (44_stack.md). -/

namespace Sys2Proof.Machine

/-- PUSH $x (44_stack.md R103). -/
def execPushR (x : Reg) (s : State) : Host.Outcome State Fault Refusal :=
  .next (push8 s (regOperand s x))

/-- PUSH #n (44_stack.md R104). -/
def execPushI (n : Byte) (s : State) : Host.Outcome State Fault Refusal :=
  .next (push8 s (immOperand n))

/-- POP $x (44_stack.md R105). The sink discards the byte; sp still moves. -/
def execPopR (x : Reg) (s : State) : Host.Outcome State Fault Refusal :=
  .next ((pop8 s).2.writeReg x (pop8 s).1)

end Sys2Proof.Machine
end

