-- ==== Sys2Proof/Machine/Store.lean ====
section
/-! DEFINITION. STORE (48_store.md). It writes one byte and nothing else. -/

namespace Sys2Proof.Machine

/-- STORE [$x,$y],$z (48_store.md R126). -/
def execStorePR (x : Reg) (y : Reg) (z : Reg) (s : State) : Host.Outcome State Fault Refusal :=
  .next (s.memWrite (pairAddress s x y) (regOperand s z))

/-- STORE [#nn],$x (48_store.md R127). -/
def execStoreAR (nn : Addr) (x : Reg) (s : State) : Host.Outcome State Fault Refusal :=
  .next (s.memWrite (absAddress nn) (regOperand s x))

/-- STORE [$x,$y],#n (48_store.md R128). -/
def execStorePI (x : Reg) (y : Reg) (n : Byte) (s : State) : Host.Outcome State Fault Refusal :=
  .next (s.memWrite (pairAddress s x y) (immOperand n))

/-- STORE [#nn],#n (48_store.md R129). -/
def execStoreAI (nn : Addr) (n : Byte) (s : State) : Host.Outcome State Fault Refusal :=
  .next (s.memWrite (absAddress nn) (immOperand n))

end Sys2Proof.Machine
end

