-- ==== Sys2Proof/Machine/Dispatch.lean ====
section
/-! DEFINITION. From an instruction to its meaning: one arm per constructor (30_encoding.md R69). -/

namespace Sys2Proof.Machine

/-- What an instruction does, in the state that its fetch leaves: pc just after it (30_encoding.md R72). -/
def exec (i : Instr) (s : State) : Host.Outcome State Fault Refusal :=
  match i with
  | .nop => Sys2Proof.Machine.execNop s
  | .movRR x y => Sys2Proof.Machine.execMovRR x y s
  | .movRI x n => Sys2Proof.Machine.execMovRI x n s
  | .movRA x nn => Sys2Proof.Machine.execMovRA x nn s
  | .movRP x y z => Sys2Proof.Machine.execMovRP x y z s
  | .notR x => Sys2Proof.Machine.execNotR x s
  | .andRR x y => Sys2Proof.Machine.execAndRR x y s
  | .andRI x n => Sys2Proof.Machine.execAndRI x n s
  | .jmpA nn => Sys2Proof.Machine.execJmpA nn s
  | .jmpP x y => Sys2Proof.Machine.execJmpP x y s
  | .jzA nn => Sys2Proof.Machine.execJzA nn s
  | .jzP x y => Sys2Proof.Machine.execJzP x y s
  | .jnzA nn => Sys2Proof.Machine.execJnzA nn s
  | .jnzP x y => Sys2Proof.Machine.execJnzP x y s
  | .juA nn => Sys2Proof.Machine.execJuA nn s
  | .juP x y => Sys2Proof.Machine.execJuP x y s
  | .jnuA nn => Sys2Proof.Machine.execJnuA nn s
  | .jnuP x y => Sys2Proof.Machine.execJnuP x y s
  | .joA nn => Sys2Proof.Machine.execJoA nn s
  | .joP x y => Sys2Proof.Machine.execJoP x y s
  | .jnoA nn => Sys2Proof.Machine.execJnoA nn s
  | .jnoP x y => Sys2Proof.Machine.execJnoP x y s
  | .cmpRI x n => Sys2Proof.Machine.execCmpRI x n s
  | .cmpRR x y => Sys2Proof.Machine.execCmpRR x y s
  | .pushR x => Sys2Proof.Machine.execPushR x s
  | .pushI n => Sys2Proof.Machine.execPushI n s
  | .popR x => Sys2Proof.Machine.execPopR x s
  | .addRI x n => Sys2Proof.Machine.execAddRI x n s
  | .addRR x y => Sys2Proof.Machine.execAddRR x y s
  | .subRI x n => Sys2Proof.Machine.execSubRI x n s
  | .subRR x y => Sys2Proof.Machine.execSubRR x y s
  | .mulRI x n => Sys2Proof.Machine.execMulRI x n s
  | .mulRR x y => Sys2Proof.Machine.execMulRR x y s
  | .divRI x n => Sys2Proof.Machine.execDivRI x n s
  | .divRR x y => Sys2Proof.Machine.execDivRR x y s
  | .modRI x n => Sys2Proof.Machine.execModRI x n s
  | .modRR x y => Sys2Proof.Machine.execModRR x y s
  | .incR x => Sys2Proof.Machine.execIncR x s
  | .decR x => Sys2Proof.Machine.execDecR x s
  | .pwrRI x n => Sys2Proof.Machine.execPwrRI x n s
  | .pwrRR x y => Sys2Proof.Machine.execPwrRR x y s
  | .sqrtR x => Sys2Proof.Machine.execSqrtR x s
  | .fsqrtR x => Sys2Proof.Machine.execFsqrtR x s
  | .callA nn => Sys2Proof.Machine.execCallA nn s
  | .callP x y => Sys2Proof.Machine.execCallP x y s
  | .ret => Sys2Proof.Machine.execRet s
  | .storePR x y z => Sys2Proof.Machine.execStorePR x y z s
  | .storeAR nn x => Sys2Proof.Machine.execStoreAR nn x s
  | .storePI x y n => Sys2Proof.Machine.execStorePI x y n s
  | .storeAI nn n => Sys2Proof.Machine.execStoreAI nn n s
  | .haltR x => Sys2Proof.Machine.execHaltR x s
  | .haltI n => Sys2Proof.Machine.execHaltI n s
  | .halt => Sys2Proof.Machine.execHalt s

end Sys2Proof.Machine
end

