-- ==== Sys2Proof/Machine/Fetch.lean ====
section
/-! DEFINITION. The fetch and decode half of a tick (30_encoding.md R72). -/

namespace Sys2Proof.Machine

/-- The instruction at pc, and the state with pc just after it: the decoder of R72 fetching from the machine itself,
byte by byte. -/
def fetchInstr (s : State) : Except DecodeError (Instr × State) := parse fetchByte s.params.opcodeMap s

/-- The four bytes from pc on, wrapping from 0xFFFF to 0x0000 (30_encoding.md R63). -/
def windowAt (s : State) : Window :=
  ⟨s.memRead s.pc, s.memRead (s.pc + 1), s.memRead (s.pc + 2), s.memRead (s.pc + 3)⟩

/-- The state at the start of a tick: the bytes of a window stored at pc, and what the fetch needs besides, an
instance that has not halted, with the opcode map the window is written in. -/
def placeWindow (s : State) (m : OpcodeMap) (w : Window) : State :=
  { s with
    mem := s.mem.writeBytes s.pc w.toBytes
    params := { s.params with opcodeMap := m }
    reply := match s.reply with
      | .halt _ => .ok
      | r => r }

end Sys2Proof.Machine
end

