-- ==== Sys2Proof/Machine/Step.lean ====
section
/-! DEFINITION. One tick (30_encoding.md R72). -/

namespace Sys2Proof.Machine

/-- `STEP()` (30_encoding.md R72): fetch and decode, then execute, replying Continue unless the form halts. A
condition at decode ends the tick (R74); a step after a Halt reply is refused (notes/assumptions/12.md). -/
def step (s : State) : Host.Outcome State Fault Refusal :=
  match s.reply with
  | .halt _ => .refused .stepAfterHalt
  | _ =>
    match fetchInstr s with
    | .error e => raise (faultOfDecode e)
    | .ok (i, s') => exec i (s'.setReply .cont)

/-- The state with the instruction whose bits are `w`, numbered as spec/opcode_table.json numbers them, stored where
the next step fetches (notes/assumptions/16.md). -/
def State.withFetchWord (s : State) (nbits w : Nat) : State :=
  placeWindow s defaultOpcodeMap (tableWindow nbits w)

end Sys2Proof.Machine
end

