-- ==== Sys2Proof/Machine/Driver.lean ====
section
/-! DEFINITION. The block's boundary: the operations beside STEP (00_scope.md R12), the driver that calls them
(R13), and the exit statuses (60_exceptions.md section 5). -/

namespace Sys2Proof.Machine

/-- `LOAD(image)` (20_memory.md R55): the image's bytes at addresses 0 to L-1. It is the first operation on an
instance and happens once; any other `LOAD` is refused (70_reset_and_hazards.md R153, notes/assumptions/13.md). -/
def load (image : List Byte) (s : State) : Host.Outcome State Fault Refusal :=
  match s.reply with
  | .idle =>
    if 65536 < image.length then raise .programTooLarge
    else .next ((s.setMem (s.mem.writeBytes 0 image)).setReply .ok)
  | _ => .refused .secondLoad

/-- `IDENTIFY()` (00_scope.md R12): ARCH_ID, a constant the spec leaves unconstrained. -/
def identify (_ : State) : String := Config.archId

/-- `OBSERVE(addr)` (00_scope.md R12): an external read of memory between two ticks, with no effect. -/
def observe (s : State) (a : Addr) : Byte := s.memRead a

/-- What the framebuffer surface reads: the 768 bytes from FB_BASE on (20_memory.md R57), in address order. DESIGN
CHOICE: the spec does not bound FB_BASE, and gives no wrap for a window whose base lies above 0xFD00; the model takes
its addresses modulo 65536 (notes/assumptions/20.md). -/
def framebuffer (s : State) : List Byte :=
  (List.range 768).map fun k => observe s (Config.fbBase + BitVec.ofNat 16 k)

/-- The driver (00_scope.md R13, 70_reset_and_hazards.md R160): `STEP()` until the reply is not Continue, for at most
`ticks` ticks. A run still going after them is answered with its state, whose reply is not a halt
(notes/assumptions/15.md). -/
def drive : Nat → State → Host.Outcome State Fault Refusal
  | 0, s => .next s
  | ticks + 1, s =>
    match step s with
    | .next t =>
      match t.reply with
      | .halt _ => .next t
      | _ => drive ticks t
    | o => o

/-- A run from boot: create the instance, load the image, then drive it (70_reset_and_hazards.md R153). -/
def boot (p : Params) (init : Init) (image : List Byte) (ticks : Nat) : Host.Outcome State Fault Refusal :=
  match load image (State.create p init) with
  | .next s => drive ticks s
  | o => o

/-- The host-level conditions, outside the core (60_exceptions.md R143). -/
inductive HostCondition where
  | unsupportedOs
  | missingFileArgument
  | fileNotFound
  | fileTooBig
  | errorOpeningFile
deriving DecidableEq, Repr

/-- The codes of the host-level conditions (60_exceptions.md R143). -/
def hostCode : HostCondition → Nat
  | .unsupportedOs => 129
  | .missingFileArgument => 130
  | .fileNotFound => 131
  | .fileTooBig => 132
  | .errorOpeningFile => 133

/-- The code of a fatal condition (60_exceptions.md R135); UndefinedOperation has none. The loader's ProgramTooLarge
is the host's "file too big" (R143). -/
def conditionCode : Fault → Option Nat
  | .abnormalTermination _ => some 6
  | .illegalRegister _ => some 11
  | .undefinedOperation _ => none
  | .programTooLarge => some (hostCode .fileTooBig)

/-- The exit status of a condition code (60_exceptions.md R142). -/
def exitOfCode (c : Nat) : Nat := if c ≤ 128 then 128 + c else c - 128

/-- The process exit status of a run's end (60_exceptions.md R142): the halt code itself, or what the condition's code
gives; none for a run that has not ended, and for a condition with no code. -/
def exitStatus : Host.Outcome State Fault Refusal → Option Nat
  | .next s =>
    match s.reply with
    | .halt code => some code.toNat
    | _ => none
  | .fault c => (conditionCode c).map exitOfCode
  | .refused _ => none

end Sys2Proof.Machine
end

