-- ==== Sys2Proof/Safety.lean ====
section
/-! DEFINITION. What counts as a safe run, and the terms the claims are stated in. -/

namespace Sys2Proof.Machine

/-- The state an outcome goes on with, none where it stops. -/
def nextOf : Host.Outcome State Fault Refusal → Option State
  | .next t => some t
  | _ => none

/-- The fault an outcome stops with. -/
def faultOf : Host.Outcome State Fault Refusal → Option Fault
  | .fault c => some c
  | _ => none

/-- The refusal an outcome stops with. -/
def refusalOf : Host.Outcome State Fault Refusal → Option Refusal
  | .refused r => some r
  | _ => none

/-- The instance has replied Halt: its run is over (70_reset_and_hazards.md R160). -/
def Halted (s : State) : Prop := ∃ code, s.reply = .halt code

/-- A run of at most `ticks` ticks that meets no fatal condition (70_reset_and_hazards.md R160, R162). -/
def SafeFor (ticks : Nat) (s : State) : Prop := faultOf (drive ticks s) = none

/-- The model's invariant: memory in canonical form, parameters within the bounds the spec sets. -/
abbrev State.Inv (s : State) : Prop := s.mem.wf ∧ s.params.Legal

/-- At most one flag is set (10_state.md R25). -/
abbrev AtMostOneFlag (f : Flags) : Prop :=
  ¬(f.zero = true ∧ f.underflow = true) ∧ ¬(f.zero = true ∧ f.overflow = true) ∧
    ¬(f.underflow = true ∧ f.overflow = true)

/-! Frames: what a state keeps of another. Memory is compared byte by byte. -/

/-- Every byte of memory reads as before. -/
def SameMemory (s t : State) : Prop := ∀ a, t.memRead a = s.memRead a

/-- The byte at `a` reads `v`, every other byte reads as before. -/
def StoredByte (s t : State) (a : Addr) (v : Byte) : Prop :=
  t.memRead a = v ∧ ∀ b, b ≠ a → t.memRead b = s.memRead b

/-- Every register reads as before. -/
def SameRegs (s t : State) : Prop := ∀ n, t.regs.get n = s.regs.get n

/-- Register `x` holds `v` and every other register reads as before; for the sink no register changes
(10_state.md R17, R18). -/
def WroteReg (s t : State) (x : Reg) (v : Byte) : Prop :=
  ∀ n, t.regs.get n = if x = .slot n then v else s.regs.get n

/-- The model's own fields are unchanged. -/
def SameOwn (s t : State) : Prop := t.params = s.params ∧ t.reply = s.reply

/-- The flags are those of `UpdateFlags(wide)` for a wide value that is not negative (10_state.md R24). -/
def FlagsOf (t : State) (wide : Nat) : Prop :=
  (t.flags.overflow = true ↔ 255 < wide) ∧ (t.flags.zero = true ↔ wide = 0) ∧ t.flags.underflow = false

/-- Only a register was written: `x` with `v`; pc, sp, memory and the flags are as before. -/
def OnlyRegister (s t : State) (x : Reg) (v : Byte) : Prop :=
  WroteReg s t x v ∧ t.flags = s.flags ∧ SameMemory s t ∧ t.pc = s.pc ∧ t.sp = s.sp ∧ SameOwn s t

/-- Only a register and the flags were written; pc, sp and memory are as before. -/
def OnlyRegisterAndFlags (s t : State) (x : Reg) (v : Byte) : Prop :=
  WroteReg s t x v ∧ SameMemory s t ∧ t.pc = s.pc ∧ t.sp = s.sp ∧ SameOwn s t

/-- The end of an arithmetic form with wide result `wide`: its low byte in `x`, its flags, nothing else
(45_arithmetic.md R106). -/
def ArithmeticResult (s t : State) (x : Reg) (wide : Nat) : Prop :=
  ∃ v : Byte, v.toNat = wide % 256 ∧ OnlyRegisterAndFlags s t x v ∧ FlagsOf t wide

/-- Only sp and one byte of memory were written: a push of `v` at the slot of the old sp. -/
def Pushed (s t : State) (v : Byte) : Prop :=
  StoredByte s t (stackAddr s.params s.sp) v ∧ t.sp.toNat = (s.sp.toNat + 1) % 256 ∧
    SameRegs s t ∧ t.flags = s.flags ∧ t.pc = s.pc ∧ SameOwn s t

/-- A call of `target`: the two bytes of the old pc in the two slots of the old sp, the high byte first, and nothing
else but sp and pc (47_call_return.md R123). -/
def Called (s t : State) (target : Nat) : Prop :=
  t.pc.toNat = target ∧ t.sp.toNat = (s.sp.toNat + 2) % 256 ∧
    (t.memRead (stackAddr s.params s.sp)).toNat = s.pc.toNat / 256 ∧
    (t.memRead (stackAddr s.params (s.sp + 1))).toNat = s.pc.toNat % 256 ∧
    (∀ a, a ≠ stackAddr s.params s.sp → a ≠ stackAddr s.params (s.sp + 1) → t.memRead a = s.memRead a) ∧
    SameRegs s t ∧ t.flags = s.flags ∧ SameOwn s t

/-- Only the reply was written: Halt with this code. -/
def HaltedWith (s t : State) (code : Byte) : Prop :=
  t.reply = .halt code ∧ SameRegs s t ∧ t.flags = s.flags ∧ SameMemory s t ∧ t.pc = s.pc ∧ t.sp = s.sp ∧
    t.params = s.params

/-- Only pc may have changed. -/
def OnlyPc (s t : State) (pc : Addr) : Prop :=
  t.pc = pc ∧ SameRegs s t ∧ t.flags = s.flags ∧ SameMemory s t ∧ t.sp = s.sp ∧ SameOwn s t

/-- Only one byte of memory was written. -/
def OnlyByte (s t : State) (a : Addr) (v : Byte) : Prop :=
  StoredByte s t a v ∧ SameRegs s t ∧ t.flags = s.flags ∧ t.pc = s.pc ∧ t.sp = s.sp ∧ SameOwn s t

/-- An instruction with a zero operand that ends the run, and the condition it raises: a DIV or MOD whose divisor is 0
(45_arithmetic.md R106), a PWR whose base or exponent is 0 (46_power_root.md R119). -/
def ZeroOperand (i : Instr) (s : State) (c : Fault) : Prop :=
  (c = .undefinedOperation .divByZero ∧
      ((∃ x, i = .divRI x 0) ∨ ∃ x y, i = .divRR x y ∧ s.readReg y = 0)) ∨
    (c = .undefinedOperation .modByZero ∧
      ((∃ x, i = .modRI x 0) ∨ ∃ x y, i = .modRR x y ∧ s.readReg y = 0)) ∨
    (c = .abnormalTermination .pwrZeroOperand ∧
      ((∃ x n, i = .pwrRI x n ∧ (s.readReg x = 0 ∨ n = 0)) ∨
        ∃ x y, i = .pwrRR x y ∧ (s.readReg x = 0 ∨ s.readReg y = 0)))

/-! Which instructions may touch what (10_state.md R20, R22, R26, R27; 20_memory.md R36; 10_state.md R21). -/

/-- The destination register of an instruction, none where it writes no register (10_state.md R20). -/
def destOf : Instr → Option Reg
  | .movRR x _ | .movRI x _ | .movRA x _ | .movRP x _ _ => some x
  | .notR x | .andRR x _ | .andRI x _ => some x
  | .popR x => some x
  | .addRI x _ | .addRR x _ | .subRI x _ | .subRR x _ | .mulRI x _ | .mulRR x _ => some x
  | .divRI x _ | .divRR x _ | .modRI x _ | .modRR x _ | .incR x | .decR x => some x
  | .pwrRI x _ | .pwrRR x _ | .sqrtR x | .fsqrtR x => some x
  | .nop | .jmpA _ | .jmpP _ _ | .jzA _ | .jzP _ _ | .jnzA _ | .jnzP _ _ | .juA _ | .juP _ _ => none
  | .jnuA _ | .jnuP _ _ | .joA _ | .joP _ _ | .jnoA _ | .jnoP _ _ | .cmpRI _ _ | .cmpRR _ _ => none
  | .pushR _ | .pushI _ | .callA _ | .callP _ _ | .ret => none
  | .storePR _ _ _ | .storeAR _ _ | .storePI _ _ _ | .storeAI _ _ | .haltR _ | .haltI _ | .halt => none

/-- The instructions that use the stack primitives: PUSH, POP, CALL, RET (10_state.md R22). -/
abbrev UsesStack (i : Instr) : Prop :=
  i.form ∈ [.pushR, .pushI, .popR, .callA, .callP, .ret]

/-- The instructions that write memory: STORE, PUSH, CALL (20_memory.md R36). -/
abbrev WritesMemory (i : Instr) : Prop :=
  i.form ∈ [.storePR, .storeAR, .storePI, .storeAI, .pushR, .pushI, .callA, .callP]

/-- The instructions that write the flags (10_state.md R26). -/
abbrev WritesFlags (i : Instr) : Prop :=
  i.form ∈ [.addRI, .addRR, .subRI, .subRR, .mulRI, .mulRR, .divRI, .divRR, .modRI, .modRR, .incR, .decR,
    .cmpRI, .cmpRR, .pwrRI, .pwrRR, .sqrtR, .fsqrtR]

/-- The conditional jumps, the only instructions that read the flags (10_state.md R27). -/
abbrev ConditionalJump (i : Instr) : Prop :=
  i.form ∈ [.jzA, .jzP, .jnzA, .jnzP, .juA, .juP, .jnuA, .jnuP, .joA, .joP, .jnoA, .jnoP]

/-- The instructions that set pc: jumps, CALL, RET (10_state.md R21). -/
abbrev SetsPc (i : Instr) : Prop :=
  ConditionalJump i ∨ i.form ∈ [.jmpA, .jmpP, .callA, .callP, .ret]

/-- The three HALT forms (30_encoding.md R73). -/
abbrev IsHalt (i : Instr) : Prop := i.form ∈ [.haltR, .haltI, .halt]

end Sys2Proof.Machine
end

