-- ==== Sys2Proof/Certificates/Slice0/Obligations.lean ====
section
/-! DEFINITION. The statements for the provers, each with the rule of spec/ it rests on. `exec` runs in the state its
fetch leaves: pc is the address after the instruction (10_state.md R21). -/

open Sys2Proof Sys2Proof.Machine

/-- Decoding the bytes of a well-formed instruction gives it back. Decode and encode agree on every form (30_encoding.md R63, R67, R68), under every opcode map. -/
def Obligations.DecodeOfEncodeIsTheInstruction : Prop :=
  ∀ (m : OpcodeMap) (i : Instr) (tail : List Byte), i.WellFormed m →
    decode m (Window.ofBytes (encode m i ++ tail)) = .ok i

/-- An instruction decoded from bytes encodes to those bytes. No bit of an encoding is dropped (30_encoding.md R64, R68, R71). -/
def Obligations.EncodeOfDecodeIsTheBytes : Prop :=
  ∀ (m : OpcodeMap) (w : Window) (i : Instr), decode m w = .ok i →
    w.toBytes.take i.length = encode m i

/-- Under a legal opcode map every instruction is well-formed. The opcode alone identifies the form (30_encoding.md R63, R69). -/
def Obligations.LegalMapIdentifiesEveryInstruction : Prop :=
  ∀ m : OpcodeMap, m.Legal → ∀ i : Instr,
    i.WellFormed m ∧ m.formOf (m.opcode i.form) = some i.form

/-- A step runs the instruction its bytes decode to. The tick (30_encoding.md R72): fetch, decode, execute. The reply field is the model's (notes/assumptions/11.md). -/
def Obligations.StepRunsTheDecodedInstruction : Prop :=
  ∀ (s : State) (i : Instr), ¬ Halted s →
    decode s.params.opcodeMap (windowAt s) = .ok i →
    step s = exec i { s with pc := s.pc + BitVec.ofNat 16 i.length, reply := .cont }

/-- An unassigned opcode byte raises Abnormal-Termination. 49_halt.md R133. -/
def Obligations.UnknownOpcodeEndsTheRun : Prop :=
  (∀ s : State, ¬ Halted s → (∀ f : Form, s.params.opcodeMap.opcode f ≠ s.memRead s.pc) →
      step s = .fault (.abnormalTermination (.unknownOpcode (s.memRead s.pc))) ∧
      exitStatus (step s) = some 134) ∧
    (∀ op : Byte, conditionCode (.abnormalTermination (.unknownOpcode op)) = some 6) ∧
    ∀ op : Byte, (∀ f : Form, defaultOpcodeMap.opcode f ≠ op) ↔ 0x32 ≤ op.toNat ∧ op.toNat ≤ 0xFC

/-- The first illegal register byte in fetch order raises Illegal-Register. ResolveReg at decode, in fetch order (30_encoding.md R65, 60_exceptions.md R138). -/
def Obligations.FirstIllegalRegisterEndsTheRun : Prop :=
  ∀ (s : State) (f : Form) (k : Nat), ¬ Halted s →
    s.params.opcodeMap.formOf (s.memRead s.pc) = some f → k ∈ f.format.regOffsets →
    ¬ ValidRegByte (s.memRead (s.pc + BitVec.ofNat 16 k)) →
    (∀ j ∈ f.format.regOffsets, j < k → ValidRegByte (s.memRead (s.pc + BitVec.ofNat 16 j))) →
    step s = .fault (.illegalRegister (s.memRead (s.pc + BitVec.ofNat 16 k))) ∧ exitStatus (step s) = some 139

/-- An assigned opcode with valid register bytes always decodes to its form. No form is shut out by its other operand bytes (30_encoding.md R64, R66, R71). -/
def Obligations.ValidRegisterBytesDecode : Prop :=
  ∀ (m : OpcodeMap) (w : Window) (f : Form), m.formOf w.b0 = some f →
    (∀ k ∈ f.format.regOffsets, ValidRegByte (w.toBytes.getD k 0)) →
    ∃ i : Instr, i.form = f ∧ decode m w = .ok i

/-- Words written out from the spec decode to the instruction they stand for. A sanity statement on single words (30_encoding.md R69). The default map is a default: notes/assumptions/1.md. -/
def Obligations.SpecWordsDecodeUnderTheDefaultMap : Prop :=
  decode defaultOpcodeMap ⟨0x02, 0x00, 0x05, 0xFF⟩ = .ok (.movRI (.slot 0) 5) ∧
    decode defaultOpcodeMap ⟨0x2B, 0x00, 0x10, 0xFF⟩ = .ok (.callA 0x0010) ∧
    decode defaultOpcodeMap ⟨0x30, 0x00, 0x01, 0x55⟩ = .ok (.storePI (.slot 0) (.slot 1) 0x55) ∧
    decode defaultOpcodeMap ⟨0x26, 0x00, 0x0C, 0x00⟩ = .ok (.decR (.slot 0)) ∧
    decode defaultOpcodeMap ⟨0x13, 0x00, 0x01, 0x00⟩ = .ok (.joP (.slot 0) (.slot 1)) ∧
    decode defaultOpcodeMap ⟨0xFF, 0x00, 0x00, 0x00⟩ = .ok .halt

/-- Creation leaves memory zero, pc 0 and the rest at its parameters. 70_reset_and_hazards.md R151, for every SP_INIT, REG_INIT and FLAGS_INIT. -/
def Obligations.CreationLeavesTheSpecsState : Prop :=
  ∀ (p : Params) (init : Init),
    (∀ a, (State.create p init).memRead a = 0) ∧ (State.create p init).pc = 0 ∧
    (State.create p init).sp = init.sp ∧ (∀ n, (State.create p init).regs.get n = init.regs.get n) ∧
    (State.create p init).flags = init.flags

/-- The instance just created meets the invariant. Where the invariant starts. State.reset takes the default parameters: notes/assumptions/1.md and 2.md. -/
def Obligations.CreationMeetsTheInvariant : Prop :=
  (∀ (p : Params) (init : Init), p.Legal → (State.create p init).Inv) ∧ State.reset.Inv

/-- Every step keeps memory canonical and the parameters legal. The model's invariant (20_memory.md R33, R35, R44; 00_scope.md R8). -/
def Obligations.EveryStepKeepsTheInvariant : Prop :=
  ∀ s t : State, s.Inv → step s = .next t → t.Inv

/-- No step changes OPCODE_MAP, STACK_BASE or SQRT_MAGIC. The parameters are arguments, not state the core writes (00_scope.md R8, 10_state.md R15). -/
def Obligations.NoStepChangesTheParameters : Prop :=
  ∀ s t : State, step s = .next t → t.params = s.params

/-- LOAD places the image at address 0 and leaves the rest zero. 20_memory.md R55. A byte past the image reads 0 (`getD`). -/
def Obligations.LoadPlacesTheImage : Prop :=
  ∀ (p : Params) (init : Init) (image : List Byte),
    (image.length ≤ 65536 → ∃ t, load image (State.create p init) = .next t ∧
      (∀ a : Addr, t.memRead a = image.getD a.toNat 0) ∧ t.reply = .ok ∧
      t.pc = 0 ∧ t.sp = init.sp ∧ t.regs = init.regs ∧ t.flags = init.flags ∧ t.params = p) ∧
    (65536 < image.length → load image (State.create p init) = .fault .programTooLarge)

/-- LOAD is refused after a LOAD or a step; that it is refused is the model's choice (log entry 13). DESIGN CHOICE of the model (notes/assumptions/13.md), after 92_eei_decisions.md D27, "the model admits one LOAD before the first STEP". The words of 70_reset_and_hazards.md R153 are of a second LOAD alone, and a first LOAD after a step is refused by the model's choice. -/
def Obligations.LoadHappensOnceBeforeTheFirstStep : Prop :=
  (∀ (s : State) (image : List Byte), load image s = .refused .secondLoad ↔ s.reply ≠ .idle) ∧
    (∀ (s t : State) (image : List Byte), load image s = .next t → t.reply ≠ .idle) ∧
    ∀ s t : State, step s = .next t → t.reply ≠ .idle

/-- Two canonical memories that read alike are the same data. The representation of the array (20_memory.md R33, R38) is unique; the form is the model's. -/
def Obligations.CanonicalMemoriesWithEqualBytesAreEqual : Prop :=
  ∀ m n : Memory, m.wf → n.wf → (∀ a, m.read a = n.read a) → m = n

/-- FetchByte reads at pc and increments pc modulo 65536. 20_memory.md R41. -/
def Obligations.FetchByteReadsAndAdvances : Prop :=
  ∀ s : State, (fetchByte s).1 = s.memRead s.pc ∧
    (fetchByte s).2.pc.toNat = (s.pc.toNat + 1) % 65536 ∧
    OnlyPc s (fetchByte s).2 (fetchByte s).2.pc

/-- A register write replaces its slot alone; the sink reads 0 and discards writes. 10_state.md R17, with the sink of R18. -/
def Obligations.RegisterWritesReplaceOneSlot : Prop :=
  ∀ (s : State) (v : Byte),
    (∀ n, s.readReg (.slot n) = s.regs.get n ∧ (s.writeReg (.slot n) v).readReg (.slot n) = v ∧
      OnlyRegister s (s.writeReg (.slot n) v) (.slot n) v) ∧
    s.readReg .sink = 0 ∧ s.writeReg .sink v = s

/-- UpdateFlags writes the three flags, at most one of them true. 10_state.md R24 and R25. -/
def Obligations.UpdateFlagsWritesAllThree : Prop :=
  ∀ r : Int, ((updateFlags r).overflow = true ↔ r > 255) ∧ ((updateFlags r).zero = true ↔ r = 0) ∧
    ((updateFlags r).underflow = true ↔ r < 0) ∧ AtMostOneFlag (updateFlags r) ∧
    ((1 ≤ r ∧ r ≤ 255) ↔ updateFlags r = ⟨false, false, false⟩)

/-- Every step keeps at most one flag set. Every writer of the flags sets at most one (10_state.md R25, R26). -/
def Obligations.EveryStepKeepsAtMostOneFlag : Prop :=
  ∀ s t : State, AtMostOneFlag s.flags → step s = .next t → AtMostOneFlag t.flags

/-- The stack slot is STACK_BASE + (255 - sp), without a wrap. 20_memory.md R44. -/
def Obligations.StackSlotLiesInTheWindow : Prop :=
  ∀ (p : Params) (sp : Byte), p.stackBase.toNat ≤ 0xFF00 →
    (stackAddr p sp).toNat = p.stackBase.toNat + (255 - sp.toNat) ∧
    (stackAddr p sp).toNat ≤ p.stackBase.toNat + 255

/-- Push16 followed by Pop16 returns the value and restores sp. 20_memory.md R48. -/
def Obligations.Pop16InvertsPush16 : Prop :=
  (∀ s : State, (pop16 s).1.toNat = (pop8 (pop8 s).2).1.toNat * 256 + (pop8 s).1.toNat ∧
      (pop16 s).2 = (pop8 (pop8 s).2).2) ∧
    ∀ (s : State) (v : Addr), (pop16 (push16 s v)).1 = v ∧ (pop16 (push16 s v)).2.sp = s.sp

/-- NOP completes and changes nothing. 40_control_move.md R78. -/
def Obligations.NopChangesNothing : Prop :=
  ∀ s : State, exec .nop s = .next s

/-- MOV completes in all four forms and writes only its destination. 40_control_move.md R79 to R82. -/
def Obligations.MovWritesItsSourceToItsDestination : Prop :=
  ∀ (s : State) (x y z : Reg) (n : Byte) (nn a : Addr),
    (∃ t, exec (.movRR x y) s = .next t ∧ OnlyRegister s t x (s.readReg y)) ∧
    (∃ t, exec (.movRI x n) s = .next t ∧ OnlyRegister s t x n) ∧
    (∃ t, exec (.movRA x nn) s = .next t ∧ OnlyRegister s t x (s.memRead nn)) ∧
    (a.toNat = (s.readReg y).toNat * 256 + (s.readReg z).toNat →
      ∃ t, exec (.movRP x y z) s = .next t ∧ OnlyRegister s t x (s.memRead a))

/-- NOT and AND complete and write only their destination. 41_bitwise.md R83 to R85. -/
def Obligations.BitwiseWritesOnlyItsDestination : Prop :=
  ∀ (s : State) (x y : Reg) (n : Byte),
    (∃ t v, exec (.notR x) s = .next t ∧ OnlyRegister s t x v ∧ v.toNat = 255 - (s.readReg x).toNat) ∧
    (∃ t v, exec (.andRR x y) s = .next t ∧ OnlyRegister s t x v ∧
      ∀ i, v.getLsbD i = ((s.readReg x).getLsbD i && (s.readReg y).getLsbD i)) ∧
    (∃ t v, exec (.andRI x n) s = .next t ∧ OnlyRegister s t x v ∧
      ∀ i, v.getLsbD i = ((s.readReg x).getLsbD i && n.getLsbD i))

/-- Every [#nn] jump completes and moves only pc. 42_jump.md R86, the [#nn] forms. -/
def Obligations.JumpToAddressMovesOnlyPc : Prop :=
  ∀ (s : State) (nn : Addr),
    (∃ t, exec (.jmpA nn) s = .next t ∧ OnlyPc s t nn) ∧
    (∃ t, exec (.jzA nn) s = .next t ∧ OnlyPc s t (if s.flags.zero then nn else s.pc)) ∧
    (∃ t, exec (.jnzA nn) s = .next t ∧ OnlyPc s t (if !s.flags.zero then nn else s.pc)) ∧
    (∃ t, exec (.juA nn) s = .next t ∧ OnlyPc s t (if s.flags.underflow then nn else s.pc)) ∧
    (∃ t, exec (.jnuA nn) s = .next t ∧ OnlyPc s t (if !s.flags.underflow then nn else s.pc)) ∧
    (∃ t, exec (.joA nn) s = .next t ∧ OnlyPc s t (if s.flags.overflow then nn else s.pc)) ∧
    (∃ t, exec (.jnoA nn) s = .next t ∧ OnlyPc s t (if !s.flags.overflow then nn else s.pc))

/-- Every [$x,$y] jump completes and moves only pc. 42_jump.md R86, the [$x,$y] forms. -/
def Obligations.JumpToRegisterPairMovesOnlyPc : Prop :=
  ∀ (s : State) (x y : Reg) (a : Addr), a.toNat = (s.readReg x).toNat * 256 + (s.readReg y).toNat →
    (∃ t, exec (.jmpP x y) s = .next t ∧ OnlyPc s t a) ∧
    (∃ t, exec (.jzP x y) s = .next t ∧ OnlyPc s t (if s.flags.zero then a else s.pc)) ∧
    (∃ t, exec (.jnzP x y) s = .next t ∧ OnlyPc s t (if !s.flags.zero then a else s.pc)) ∧
    (∃ t, exec (.juP x y) s = .next t ∧ OnlyPc s t (if s.flags.underflow then a else s.pc)) ∧
    (∃ t, exec (.jnuP x y) s = .next t ∧ OnlyPc s t (if !s.flags.underflow then a else s.pc)) ∧
    (∃ t, exec (.joP x y) s = .next t ∧ OnlyPc s t (if s.flags.overflow then a else s.pc)) ∧
    (∃ t, exec (.jnoP x y) s = .next t ∧ OnlyPc s t (if !s.flags.overflow then a else s.pc))

/-- CMP completes and writes only the flags of the sum. 43_compare.md R101 and R102. -/
def Obligations.CmpWritesOnlyTheFlagsOfTheSum : Prop :=
  ∀ (s : State) (x y : Reg) (n : Byte),
    (∃ t, exec (.cmpRI x n) s = .next t ∧ FlagsOf t ((s.readReg x).toNat + n.toNat) ∧
      SameRegs s t ∧ SameMemory s t ∧ t.pc = s.pc ∧ t.sp = s.sp ∧ SameOwn s t) ∧
    (∃ t, exec (.cmpRR x y) s = .next t ∧ FlagsOf t ((s.readReg x).toNat + (s.readReg y).toNat) ∧
      SameRegs s t ∧ SameMemory s t ∧ t.pc = s.pc ∧ t.sp = s.sp ∧ SameOwn s t)

/-- PUSH completes, stores one byte at the stack slot and increments sp. 44_stack.md R103 and R104. -/
def Obligations.PushStoresAtTheSlotAndAdvancesSp : Prop :=
  ∀ (s : State) (x : Reg) (n : Byte),
    (∃ t, exec (.pushR x) s = .next t ∧ Pushed s t (s.readReg x)) ∧
    (∃ t, exec (.pushI n) s = .next t ∧ Pushed s t n)

/-- POP completes, decrements sp and writes the byte of the slot it then names. 44_stack.md R105. -/
def Obligations.PopReadsTheSlotBelowAndDecrementsSp : Prop :=
  ∀ (s : State) (x : Reg), ∃ t, exec (.popR x) s = .next t ∧
    WroteReg s t x (s.memRead (stackAddr s.params (s.sp - 1))) ∧ t.sp.toNat = (s.sp.toNat + 255) % 256 ∧
    t.flags = s.flags ∧ SameMemory s t ∧ t.pc = s.pc ∧ SameOwn s t

/-- PUSH then POP returns the byte and restores sp. The round trip that fixes the order of a pop (20_memory.md R46, 44_stack.md R105). -/
def Obligations.PushThenPopReturnsTheByte : Prop :=
  ∀ (s : State) (x y : Reg) (n : Byte),
    (∃ t u, exec (.pushI n) s = .next t ∧ exec (.popR x) t = .next u ∧ WroteReg s u x n ∧ u.sp = s.sp) ∧
    (∃ t u, exec (.pushR y) s = .next t ∧ exec (.popR x) t = .next u ∧ WroteReg s u x (s.readReg y) ∧
      u.sp = s.sp)

/-- ADD and SUB complete and store the low byte of the sum. 45_arithmetic.md R106 to R110. SUB adds (R109). -/
def Obligations.AddAndSubStoreTheSum : Prop :=
  ∀ (s : State) (x y : Reg) (n : Byte),
    (∃ t, exec (.addRI x n) s = .next t ∧ ArithmeticResult s t x ((s.readReg x).toNat + n.toNat)) ∧
    (∃ t, exec (.addRR x y) s = .next t ∧ ArithmeticResult s t x ((s.readReg x).toNat + (s.readReg y).toNat)) ∧
    (∃ t, exec (.subRI x n) s = .next t ∧ ArithmeticResult s t x ((s.readReg x).toNat + n.toNat)) ∧
    (∃ t, exec (.subRR x y) s = .next t ∧ ArithmeticResult s t x ((s.readReg x).toNat + (s.readReg y).toNat))

/-- MUL completes and stores the low byte of the product. 45_arithmetic.md R111 and R112. -/
def Obligations.MulStoresTheProduct : Prop :=
  ∀ (s : State) (x y : Reg) (n : Byte),
    (∃ t, exec (.mulRI x n) s = .next t ∧ ArithmeticResult s t x ((s.readReg x).toNat * n.toNat)) ∧
    (∃ t, exec (.mulRR x y) s = .next t ∧ ArithmeticResult s t x ((s.readReg x).toNat * (s.readReg y).toNat))

/-- DIV by a nonzero byte completes and stores the nearest integer, ties up. 45_arithmetic.md R113 and R114: round half away from zero, said by its bounds. -/
def Obligations.DivStoresTheNearestQuotient : Prop :=
  ∀ (s : State) (x y : Reg) (n : Byte),
    (n ≠ 0 → ∃ t q, exec (.divRI x n) s = .next t ∧ ArithmeticResult s t x q ∧ q ≤ 255 ∧
      2 * q * n.toNat ≤ 2 * (s.readReg x).toNat + n.toNat ∧
      2 * (s.readReg x).toNat + n.toNat < 2 * (q + 1) * n.toNat) ∧
    (s.readReg y ≠ 0 → ∃ t q, exec (.divRR x y) s = .next t ∧ ArithmeticResult s t x q ∧ q ≤ 255 ∧
      2 * q * (s.readReg y).toNat ≤ 2 * (s.readReg x).toNat + (s.readReg y).toNat ∧
      2 * (s.readReg x).toNat + (s.readReg y).toNat < 2 * (q + 1) * (s.readReg y).toNat)

/-- MOD by a nonzero byte completes and stores the remainder. 45_arithmetic.md R115 and R116. -/
def Obligations.ModStoresTheRemainder : Prop :=
  ∀ (s : State) (x y : Reg) (n : Byte),
    (n ≠ 0 → ∃ t k r, exec (.modRI x n) s = .next t ∧ ArithmeticResult s t x r ∧ r < n.toNat ∧
      (s.readReg x).toNat = k * n.toNat + r) ∧
    (s.readReg y ≠ 0 → ∃ t k r, exec (.modRR x y) s = .next t ∧ ArithmeticResult s t x r ∧
      r < (s.readReg y).toNat ∧ (s.readReg x).toNat = k * (s.readReg y).toNat + r)

/-- DIV and MOD by zero end the run with UndefinedOperation. 45_arithmetic.md R106, 60_exceptions.md R135. -/
def Obligations.DivAndModByZeroEndTheRun : Prop :=
  ∀ (s : State) (x y : Reg),
    exec (.divRI x 0) s = .fault (.undefinedOperation .divByZero) ∧
    exec (.modRI x 0) s = .fault (.undefinedOperation .modByZero) ∧
    (s.readReg y = 0 → exec (.divRR x y) s = .fault (.undefinedOperation .divByZero) ∧
      exec (.modRR x y) s = .fault (.undefinedOperation .modByZero)) ∧
    (∀ u, exitStatus (.fault (.undefinedOperation u)) = none)

/-- INC completes: wraps modulo 256, overflow exactly on 255. 45_arithmetic.md R117, with 90_conflicts.md C3. -/
def Obligations.IncWrapsAndSetsOverflow : Prop :=
  ∀ (s : State) (x : Reg), ∃ t v, exec (.incR x) s = .next t ∧ OnlyRegisterAndFlags s t x v ∧
    v.toNat = ((s.readReg x).toNat + 1) % 256 ∧ (t.flags.overflow = true ↔ (s.readReg x).toNat = 255) ∧
    t.flags.zero = false ∧ t.flags.underflow = false

/-- DEC completes: wraps modulo 256, underflow exactly on 0, zero exactly on 1. 45_arithmetic.md R118. -/
def Obligations.DecWrapsAndSetsUnderflow : Prop :=
  ∀ (s : State) (x : Reg), ∃ t v, exec (.decR x) s = .next t ∧ OnlyRegisterAndFlags s t x v ∧
    v.toNat = ((s.readReg x).toNat + 255) % 256 ∧ (t.flags.underflow = true ↔ (s.readReg x).toNat = 0) ∧
    (t.flags.zero = true ↔ (s.readReg x).toNat = 1) ∧ t.flags.overflow = false

/-- PWR of nonzero operands completes and stores the low byte below 2^31 and PWR_LARGE from there on. 46_power_root.md R119 and R120. From 2^31 on the byte stored is PWR_LARGE, a constant with no body: this holds whatever it is (notes/assumptions/9.md). A zero base or exponent is PwrOfAZeroOperandEndsTheRun. -/
def Obligations.PwrStoresTheLowByteOrPwrLarge : Prop :=
  ∀ (s : State) (x y : Reg) (n : Byte), s.readReg x ≠ 0 →
    (n ≠ 0 → ∃ t v, exec (.pwrRI x n) s = .next t ∧
      OnlyRegisterAndFlags s t x v ∧ (t.flags.overflow = true ↔ 255 ≤ (s.readReg x).toNat ^ n.toNat) ∧
      t.flags.zero = false ∧ t.flags.underflow = false ∧
      ((s.readReg x).toNat ^ n.toNat < 2 ^ 31 → v.toNat = (s.readReg x).toNat ^ n.toNat % 256) ∧
      (2 ^ 31 ≤ (s.readReg x).toNat ^ n.toNat → v = Config.pwrLarge (s.readReg x) n)) ∧
    (s.readReg y ≠ 0 → ∃ t v, exec (.pwrRR x y) s = .next t ∧
      OnlyRegisterAndFlags s t x v ∧ (t.flags.overflow = true ↔ 255 ≤ (s.readReg x).toNat ^ (s.readReg y).toNat) ∧
      t.flags.zero = false ∧ t.flags.underflow = false ∧
      ((s.readReg x).toNat ^ (s.readReg y).toNat < 2 ^ 31 → v.toNat = (s.readReg x).toNat ^ (s.readReg y).toNat % 256) ∧
      (2 ^ 31 ≤ (s.readReg x).toNat ^ (s.readReg y).toNat → v = Config.pwrLarge (s.readReg x) (s.readReg y)))

/-- PWR with a zero base or exponent ends the run with Abnormal-Termination. 46_power_root.md R119 and R120. -/
def Obligations.PwrOfAZeroOperandEndsTheRun : Prop :=
  ∀ (s : State) (x y : Reg) (n : Byte),
    (s.readReg x = 0 ∨ n = 0 → exec (.pwrRI x n) s = .fault (.abnormalTermination .pwrZeroOperand)) ∧
    (s.readReg x = 0 ∨ s.readReg y = 0 → exec (.pwrRR x y) s = .fault (.abnormalTermination .pwrZeroOperand)) ∧
    exitStatus (.fault (.abnormalTermination .pwrZeroOperand)) = some 134

/-- The overflow test of PWR is the test e * ln(b) > 5.54 over the reals. 46_power_root.md R119: `overflow <- (e * ln(b) > 5.54)`, exactly b^e >= 255. -/
def Obligations.PwrOverflowIsTheLogarithmTest : Prop :=
  ∀ b e : Byte, b ≠ 0 → e ≠ 0 →
    (pwrOverflow b e = true ↔ (5.54 : ℝ) < (e.toNat : ℝ) * Real.log (b.toNat : ℝ))

/-- SQRT completes and writes its byte and the zero flag; for magic constants R121 does not name, the model's choice (log entries 7, 8). 46_power_root.md R121 for the algorithm and the flags. That SQRT completes under every magic constant is the model's choice: where y is zero or no number R121 states no byte, and sqrtByte is a free value (DESIGN CHOICE, notes/assumptions/8.md); that the reciprocal is exact is DEDUCED (notes/assumptions/7.md). -/
def Obligations.SqrtWritesOneByteAndItsZeroFlag : Prop :=
  ∀ (s : State) (x : Reg), ∃ t, exec (.sqrtR x) s = .next t ∧
    OnlyRegisterAndFlags s t x (sqrtByte s.params.sqrtMagic (s.readReg x)) ∧
    (t.flags.zero = true ↔ sqrtByte s.params.sqrtMagic (s.readReg x) = 0) ∧
    t.flags.underflow = false ∧ t.flags.overflow = false

/-- The binary32 algorithm of SQRT gives the spec's table for all 256 inputs. 46_power_root.md R121, its table. The constants are the spec's default and its alternative (notes/assumptions/6.md). -/
def Obligations.SqrtUnderTheClassicMagicIsTheTable : Prop :=
  ∀ magic : BitVec 32, magic = 0x5F3759DF ∨ magic = 0x5F375A86 → ∀ v : Byte,
    (sqrtByte magic v).toNat =
      ([1, 3, 7, 13, 21, 31, 43, 57, 73, 91, 110, 133, 156, 182, 211, 240].filter fun k => k ≤ v.toNat).length

/-- FSQRT completes and stores the nearest integer to the square root. 46_power_root.md R122. -/
def Obligations.FsqrtStoresTheNearestRoot : Prop :=
  ∀ (s : State) (x : Reg), ∃ t r, exec (.fsqrtR x) s = .next t ∧ OnlyRegisterAndFlags s t x r ∧
    4 * (s.readReg x).toNat < (2 * r.toNat + 1) ^ 2 ∧
    ((s.readReg x).toNat = 0 → r = 0) ∧
    ((s.readReg x).toNat ≠ 0 → 1 ≤ r.toNat ∧ (2 * r.toNat - 1) ^ 2 < 4 * (s.readReg x).toNat) ∧
    (t.flags.zero = true ↔ (s.readReg x).toNat = 0) ∧ t.flags.underflow = false ∧ t.flags.overflow = false

/-- CALL completes: pushes the return address high byte first and goes to the target. 47_call_return.md R123 and R124. -/
def Obligations.CallPushesTheReturnAddress : Prop :=
  ∀ (s : State) (x y : Reg) (nn : Addr),
    (∃ t, exec (.callA nn) s = .next t ∧ Called s t nn.toNat) ∧
    (∃ t, exec (.callP x y) s = .next t ∧ Called s t ((s.readReg x).toNat * 256 + (s.readReg y).toNat))

/-- RET completes: pops the low byte, then the high byte, into pc. 47_call_return.md R125. -/
def Obligations.RetPopsThePc : Prop :=
  ∀ s : State, ∃ t, exec .ret s = .next t ∧
    t.pc.toNat = (s.memRead (stackAddr s.params (s.sp - 2))).toNat * 256 +
      (s.memRead (stackAddr s.params (s.sp - 1))).toNat ∧
    t.sp.toNat = (s.sp.toNat + 254) % 256 ∧ SameRegs s t ∧ t.flags = s.flags ∧ SameMemory s t ∧ SameOwn s t

/-- RET right after CALL returns to the address after the CALL. 47_call_return.md R123 to R125. -/
def Obligations.RetUndoesCall : Prop :=
  ∀ (s : State) (x y : Reg) (nn : Addr),
    (∃ t u, exec (.callA nn) s = .next t ∧ exec .ret t = .next u ∧
      u.pc = s.pc ∧ u.sp = s.sp ∧ SameRegs s u ∧ u.flags = s.flags) ∧
    (∃ t u, exec (.callP x y) s = .next t ∧ exec .ret t = .next u ∧
      u.pc = s.pc ∧ u.sp = s.sp ∧ SameRegs s u ∧ u.flags = s.flags)

/-- STORE completes in all four forms and writes one byte of memory only. 48_store.md R126 to R129. -/
def Obligations.StoreWritesOneByte : Prop :=
  ∀ (s : State) (x y z : Reg) (n : Byte) (nn : Addr),
    (∃ t, exec (.storePR x y z) s = .next t ∧ OnlyByte s t (pairAddress s x y) (s.readReg z)) ∧
    (∃ t, exec (.storeAR nn x) s = .next t ∧ OnlyByte s t nn (s.readReg x)) ∧
    (∃ t, exec (.storePI x y n) s = .next t ∧ OnlyByte s t (pairAddress s x y) n) ∧
    (∃ t, exec (.storeAI nn n) s = .next t ∧ OnlyByte s t nn n) ∧
    (pairAddress s x y).toNat = (s.readReg x).toNat * 256 + (s.readReg y).toNat

/-- HALT completes with its code and leaves the state readable. 49_halt.md R130 to R132. The reply stands in the model's own field (notes/assumptions/11.md). -/
def Obligations.HaltRepliesWithItsCode : Prop :=
  ∀ (s : State) (x : Reg) (n : Byte),
    (∃ t, exec .halt s = .next t ∧ HaltedWith s t 0) ∧
    (∃ t, exec (.haltI n) s = .next t ∧ HaltedWith s t n) ∧
    (∃ t, exec (.haltR x) s = .next t ∧ HaltedWith s t (s.readReg x))

/-- A step replies Halt exactly for the three HALT forms, and Continue for all others. 30_encoding.md R73. -/
def Obligations.OnlyHaltRepliesHalt : Prop :=
  ∀ (s t : State) (i : Instr), ¬ Halted s → decode s.params.opcodeMap (windowAt s) = .ok i →
    step s = .next t → (Halted t ↔ IsHalt i) ∧ (¬ IsHalt i → t.reply = .cont) ∧
      (i = .halt → t.reply = .halt 0) ∧ (∀ n, i = .haltI n → t.reply = .halt n) ∧
      ∀ x, i = .haltR x → t.reply = .halt (s.readReg x)

/-- A step is refused exactly on an instance that has halted. 10_state.md R30, with 93_implementation_defined.md (STEP after a Halt: refuse). -/
def Obligations.StepIsRefusedExactlyAfterHalt : Prop :=
  (∀ (s : State) (r : Refusal), step s = .refused r ↔ Halted s ∧ r = .stepAfterHalt) ∧
    ∀ (i : Instr) (s : State) (r : Refusal), exec i s ≠ .refused r

/-- Executing an instruction ends the run exactly on a zero divisor or a zero PWR operand, and completes otherwise. The causes of a fatal condition after decode (30_encoding.md R74, 60_exceptions.md R135). No instruction is refused. -/
def Obligations.ExecFaultsOnlyOnZeroOperands : Prop :=
  (∀ (i : Instr) (s : State) (c : Fault), exec i s = .fault c ↔ ZeroOperand i s c) ∧
    ∀ (i : Instr) (s : State), (∃ c, ZeroOperand i s c) ∨ ∃ t, exec i s = .next t

/-- The exit status is the halt code, or follows from the condition code. 60_exceptions.md R142. -/
def Obligations.ExitStatusFollowsTheReply : Prop :=
  (∀ (s : State) (code : Byte), s.reply = .halt code → exitStatus (.next s) = some code.toNat) ∧
    (∀ (c : Fault) (k : Nat), conditionCode c = some k →
      exitStatus (.fault c) = some (if k ≤ 128 then 128 + k else k - 128)) ∧
    (∀ info, exitStatus (.fault (.abnormalTermination info)) = some 134) ∧
    (∀ a, exitStatus (.fault (.illegalRegister a)) = some 139)

/-- Only PUSH, POP, CALL and RET change sp. 10_state.md R22. -/
def Obligations.OnlyStackInstructionsMoveSp : Prop :=
  ∀ (i : Instr) (s t : State), ¬ UsesStack i → exec i s = .next t → t.sp = s.sp

/-- Only STORE, PUSH and CALL change memory. 20_memory.md R36. -/
def Obligations.OnlyStoresAndPushesChangeMemory : Prop :=
  ∀ (i : Instr) (s t : State), ¬ WritesMemory i → exec i s = .next t → SameMemory s t

/-- Stack instructions change no byte outside the stack window. 20_memory.md R44 and R50. -/
def Obligations.StackInstructionsStayInTheWindow : Prop :=
  ∀ (i : Instr) (s t : State), s.params.stackBase.toNat ≤ 0xFF00 → UsesStack i → exec i s = .next t →
    ∀ a : Addr, a.toNat < s.params.stackBase.toNat ∨ s.params.stackBase.toNat + 255 < a.toNat →
      t.memRead a = s.memRead a

/-- Only the arithmetic, compare, power and root instructions change the flags. 10_state.md R26. -/
def Obligations.OnlyFlagWritersChangeFlags : Prop :=
  ∀ (i : Instr) (s t : State), ¬ WritesFlags i → exec i s = .next t → t.flags = s.flags

/-- An instruction changes no register but its destination, and none for the sink. 10_state.md R17, R18 and R20. -/
def Obligations.OnlyTheDestinationRegisterChanges : Prop :=
  ∀ (i : Instr) (s t : State) (n : Fin 8), exec i s = .next t → destOf i ≠ some (.slot n) →
    t.regs.get n = s.regs.get n

/-- Only jumps, CALL and RET set pc beyond the fetch. 10_state.md R21, 20_memory.md R40. -/
def Obligations.OnlyControlTransfersSetPc : Prop :=
  ∀ (i : Instr) (s t : State), ¬ SetsPc i → exec i s = .next t → t.pc = s.pc

/-- DEC of zero is the only event that sets underflow. 45_arithmetic.md R118 ("DEC is the only instruction that sets underflow"). -/
def Obligations.OnlyDecSetsUnderflow : Prop :=
  ∀ (i : Instr) (s t : State), exec i s = .next t → t.flags.underflow = true →
    (∃ x, i = .decR x ∧ s.readReg x = 0) ∨ (s.flags.underflow = true ∧ ¬ WritesFlags i)

/-- No instruction but a conditional jump depends on the flags. 10_state.md R27. -/
def Obligations.FlagsAreReadOnlyByConditionalJumps : Prop :=
  ∀ (i : Instr) (s : State) (f : Flags), ¬ ConditionalJump i →
    (∀ c, exec i s = .fault c → exec i (s.setFlags f) = .fault c) ∧
    ∀ t, exec i s = .next t → ∃ u, exec i (s.setFlags f) = .next u ∧
      u.mem = t.mem ∧ u.pc = t.pc ∧ u.sp = t.sp ∧ u.regs = t.regs ∧ SameOwn t u ∧
      (WritesFlags i → u.flags = t.flags)
end

