-- ==== Sys2Proof/Laws/State.lean ====
section
/-! SUPPORT. One lemma per field per update of the state, so that no later proof unfolds a record update. -/

namespace Sys2Proof.Machine

section
variable (s : State) (m : Memory) (a : Addr) (v : Byte) (r : Vector Byte 8) (f : Flags) (q : Reply)

@[simp] theorem State.setMem_mem : (s.setMem m).mem = m := rfl
@[simp] theorem State.setMem_pc : (s.setMem m).pc = s.pc := rfl
@[simp] theorem State.setMem_sp : (s.setMem m).sp = s.sp := rfl
@[simp] theorem State.setMem_regs : (s.setMem m).regs = s.regs := rfl
@[simp] theorem State.setMem_flags : (s.setMem m).flags = s.flags := rfl
@[simp] theorem State.setMem_params : (s.setMem m).params = s.params := rfl
@[simp] theorem State.setMem_reply : (s.setMem m).reply = s.reply := rfl

@[simp] theorem State.setPc_mem : (s.setPc a).mem = s.mem := rfl
@[simp] theorem State.setPc_pc : (s.setPc a).pc = a := rfl
@[simp] theorem State.setPc_sp : (s.setPc a).sp = s.sp := rfl
@[simp] theorem State.setPc_regs : (s.setPc a).regs = s.regs := rfl
@[simp] theorem State.setPc_flags : (s.setPc a).flags = s.flags := rfl
@[simp] theorem State.setPc_params : (s.setPc a).params = s.params := rfl
@[simp] theorem State.setPc_reply : (s.setPc a).reply = s.reply := rfl

@[simp] theorem State.setSp_mem : (s.setSp v).mem = s.mem := rfl
@[simp] theorem State.setSp_pc : (s.setSp v).pc = s.pc := rfl
@[simp] theorem State.setSp_sp : (s.setSp v).sp = v := rfl
@[simp] theorem State.setSp_regs : (s.setSp v).regs = s.regs := rfl
@[simp] theorem State.setSp_flags : (s.setSp v).flags = s.flags := rfl
@[simp] theorem State.setSp_params : (s.setSp v).params = s.params := rfl
@[simp] theorem State.setSp_reply : (s.setSp v).reply = s.reply := rfl

@[simp] theorem State.setRegs_mem : (s.setRegs r).mem = s.mem := rfl
@[simp] theorem State.setRegs_pc : (s.setRegs r).pc = s.pc := rfl
@[simp] theorem State.setRegs_sp : (s.setRegs r).sp = s.sp := rfl
@[simp] theorem State.setRegs_regs : (s.setRegs r).regs = r := rfl
@[simp] theorem State.setRegs_flags : (s.setRegs r).flags = s.flags := rfl
@[simp] theorem State.setRegs_params : (s.setRegs r).params = s.params := rfl
@[simp] theorem State.setRegs_reply : (s.setRegs r).reply = s.reply := rfl

@[simp] theorem State.setFlags_mem : (s.setFlags f).mem = s.mem := rfl
@[simp] theorem State.setFlags_pc : (s.setFlags f).pc = s.pc := rfl
@[simp] theorem State.setFlags_sp : (s.setFlags f).sp = s.sp := rfl
@[simp] theorem State.setFlags_regs : (s.setFlags f).regs = s.regs := rfl
@[simp] theorem State.setFlags_flags : (s.setFlags f).flags = f := rfl
@[simp] theorem State.setFlags_params : (s.setFlags f).params = s.params := rfl
@[simp] theorem State.setFlags_reply : (s.setFlags f).reply = s.reply := rfl

@[simp] theorem State.setReply_mem : (s.setReply q).mem = s.mem := rfl
@[simp] theorem State.setReply_pc : (s.setReply q).pc = s.pc := rfl
@[simp] theorem State.setReply_sp : (s.setReply q).sp = s.sp := rfl
@[simp] theorem State.setReply_regs : (s.setReply q).regs = s.regs := rfl
@[simp] theorem State.setReply_flags : (s.setReply q).flags = s.flags := rfl
@[simp] theorem State.setReply_params : (s.setReply q).params = s.params := rfl
@[simp] theorem State.setReply_reply : (s.setReply q).reply = q := rfl

/-! What the operations that read one field see of an update. -/

@[simp] theorem State.setMem_readReg (x : Reg) : (s.setMem m).readReg x = s.readReg x := by cases x <;> rfl
@[simp] theorem State.setMem_stackSlot : (s.setMem m).stackSlot = s.stackSlot := rfl
@[simp] theorem State.setPc_readReg (x : Reg) : (s.setPc a).readReg x = s.readReg x := by cases x <;> rfl
@[simp] theorem State.setPc_memRead (b : Addr) : (s.setPc a).memRead b = s.memRead b := rfl
@[simp] theorem State.setPc_stackSlot : (s.setPc a).stackSlot = s.stackSlot := rfl
@[simp] theorem State.setSp_readReg (x : Reg) : (s.setSp v).readReg x = s.readReg x := by cases x <;> rfl
@[simp] theorem State.setSp_memRead (b : Addr) : (s.setSp v).memRead b = s.memRead b := rfl
@[simp] theorem State.setRegs_memRead (b : Addr) : (s.setRegs r).memRead b = s.memRead b := rfl
@[simp] theorem State.setRegs_stackSlot : (s.setRegs r).stackSlot = s.stackSlot := rfl
@[simp] theorem State.setFlags_readReg (x : Reg) : (s.setFlags f).readReg x = s.readReg x := by cases x <;> rfl
@[simp] theorem State.setFlags_memRead (b : Addr) : (s.setFlags f).memRead b = s.memRead b := rfl
@[simp] theorem State.setFlags_stackSlot : (s.setFlags f).stackSlot = s.stackSlot := rfl
@[simp] theorem State.setReply_readReg (x : Reg) : (s.setReply q).readReg x = s.readReg x := by cases x <;> rfl
@[simp] theorem State.setReply_memRead (b : Addr) : (s.setReply q).memRead b = s.memRead b := rfl
@[simp] theorem State.setReply_stackSlot : (s.setReply q).stackSlot = s.stackSlot := rfl
@[simp] theorem State.setSp_stackSlot : (s.setSp v).stackSlot = stackAddr s.params v := rfl
@[simp] theorem State.setMem_memRead (b : Addr) : (s.setMem m).memRead b = m.read b := rfl

end

end Sys2Proof.Machine
end

