-- ==== Sys2Proof/Laws/Memory.lean ====
section
/-! SUPPORT. The laws of memory: what a write leaves to be read, and that every operation keeps the canonical form. -/

namespace Sys2Proof.Machine

theorem cellAt_eraseCell (cells : List Host.Cell) (a b : Nat) :
    cellAt (eraseCell cells a) b = if b = a then Memory.unlisted else cellAt cells b := by
  induction cells with
  | nil => simp [eraseCell, cellAt]
  | cons c rest ih =>
    unfold eraseCell at ih ⊢
    by_cases hc : c.1 = a
    · simp only [List.filter_cons, hc, bne_self_eq_false, Bool.false_eq_true, if_false, ih, cellAt]
      split <;> simp_all [eq_comm]
    · have : (c.1 != a) = true := by simpa using hc
      simp only [List.filter_cons, this, if_true, cellAt, ih]
      by_cases hb : c.1 = b
      · subst hb; simp [hc]
      · simp [hb]

theorem cellAt_insertCell (new : Host.Cell) (cells : List Host.Cell) (b : Nat)
    (fresh : ∀ c ∈ cells, c.1 ≠ new.1) :
    cellAt (insertCell new cells) b = if b = new.1 then new.2 else cellAt cells b := by
  induction cells with
  | nil => simp [insertCell, cellAt, eq_comm]
  | cons c rest ih =>
    have hc : c.1 ≠ new.1 := fresh c (by simp)
    have ih := ih fun d hd => fresh d (by simp [hd])
    unfold insertCell
    split
    · simp [cellAt, eq_comm]
    · simp only [cellAt, ih]
      by_cases hb : c.1 = b
      · subst hb; simp [hc]
      · simp [hb]

theorem mem_eraseCell {cells : List Host.Cell} {a : Nat} {c : Host.Cell} :
    c ∈ eraseCell cells a ↔ c ∈ cells ∧ c.1 ≠ a := by
  simp [eraseCell]

theorem mem_insertCell {new c : Host.Cell} {cells : List Host.Cell} :
    c ∈ insertCell new cells ↔ c = new ∨ c ∈ cells := by
  induction cells with
  | nil => simp [insertCell]
  | cons d rest ih =>
    unfold insertCell
    split
    · simp
    · simp only [List.mem_cons, ih]; tauto

/-- What a write leaves to be read, on every list of cells, canonical or not (20_memory.md R38, R39). -/
theorem Memory.read_write (m : Memory) (a b : Addr) (v : Byte) :
    (m.write a v).read b = if b = a then v else m.read b := by
  have hnat : b.toNat = a.toNat ↔ b = a := ⟨BitVec.eq_of_toNat_eq, fun h => by rw [h]⟩
  unfold Memory.write Memory.read
  split
  · next hv => rw [cellAt_eraseCell]; simp [hnat, hv]
  · rw [cellAt_insertCell _ _ _ (fun c hc => (mem_eraseCell.1 hc).2), cellAt_eraseCell]
    by_cases h : b = a <;> simp [h, hnat]

@[simp] theorem Memory.read_write_same (m : Memory) (a : Addr) (v : Byte) : (m.write a v).read a = v := by
  simp [Memory.read_write]

theorem Memory.read_write_other (m : Memory) {a b : Addr} (v : Byte) (h : b ≠ a) :
    (m.write a v).read b = m.read b := by
  simp [Memory.read_write, h]

@[simp] theorem Memory.read_nil (a : Addr) : Memory.read [] a = 0 := rfl

theorem pairwise_eraseCell {cells : List Host.Cell} (a : Nat) (h : cells.Pairwise fun c d => c.1 < d.1) :
    (eraseCell cells a).Pairwise fun c d => c.1 < d.1 :=
  h.filter _

theorem pairwise_insertCell {new : Host.Cell} {cells : List Host.Cell}
    (h : cells.Pairwise fun c d => c.1 < d.1) (fresh : ∀ c ∈ cells, c.1 ≠ new.1) :
    (insertCell new cells).Pairwise fun c d => c.1 < d.1 := by
  induction cells with
  | nil => simp [insertCell]
  | cons c rest ih =>
    have hrest := List.pairwise_cons.1 h
    unfold insertCell
    split
    · next hlt =>
      refine List.pairwise_cons.2 ⟨fun d hd => ?_, h⟩
      rcases List.mem_cons.1 hd with rfl | hd
      · exact hlt
      · exact lt_trans hlt (hrest.1 d hd)
    · next hlt =>
      refine List.pairwise_cons.2 ⟨fun d hd => ?_, ih hrest.2 fun d hd => fresh d (by simp [hd])⟩
      rcases mem_insertCell.1 hd with rfl | hd
      · exact lt_of_le_of_ne (not_lt.1 hlt) (fresh c (by simp))
      · exact hrest.1 d hd

/-- A write keeps the canonical form. -/
theorem Memory.write_wf {m : Memory} (a : Addr) (v : Byte) (h : m.wf) : (m.write a v).wf := by
  have herase : ∀ c ∈ eraseCell m a.toNat, c.1 < 65536 ∧ c.2 ≠ Memory.unlisted :=
    fun c hc => h.2 c (mem_eraseCell.1 hc).1
  unfold Memory.write
  split
  · exact ⟨pairwise_eraseCell _ h.1, herase⟩
  · next hv =>
    refine ⟨pairwise_insertCell (pairwise_eraseCell _ h.1) fun c hc => (mem_eraseCell.1 hc).2, fun c hc => ?_⟩
    rcases mem_insertCell.1 hc with rfl | hc
    · exact ⟨a.isLt, hv⟩
    · exact herase c hc

/-- Writing bytes one after another keeps the canonical form. -/
theorem Memory.writeBytes_wf {m : Memory} (a : Addr) (bytes : List Byte) (h : m.wf) : (m.writeBytes a bytes).wf := by
  induction bytes generalizing m a with
  | nil => exact h
  | cons v rest ih => exact ih (a + 1) (Memory.write_wf a v h)

/-- The machine right after reset has its memory in canonical form. -/
theorem reset_mem_wf : State.reset.mem.wf := by decide

/-- What a write to the state's memory leaves to be read (20_memory.md R38, R39). -/
theorem State.memRead_memWrite (s : State) (a b : Addr) (v : Byte) :
    (s.memWrite a v).memRead b = if b = a then v else s.memRead b :=
  Memory.read_write s.mem a b v

end Sys2Proof.Machine
end

