-- ==== Sys2Proof/Laws/Ops.lean ====
section
/-! SUPPORT. For each shared operation, what it does, said once: cite these instead of unfolding the operation. -/

namespace Sys2Proof.Machine

section Registers
variable (s : State) (x : Reg) (v : Byte)

@[simp] theorem State.readReg_sink : s.readReg .sink = 0 := rfl
@[simp] theorem State.readReg_slot (n : Fin 8) : s.readReg (.slot n) = s.regs.get n := rfl

@[simp] theorem State.writeReg_mem : (s.writeReg x v).mem = s.mem := by cases x <;> rfl
@[simp] theorem State.writeReg_pc : (s.writeReg x v).pc = s.pc := by cases x <;> rfl
@[simp] theorem State.writeReg_sp : (s.writeReg x v).sp = s.sp := by cases x <;> rfl
@[simp] theorem State.writeReg_flags : (s.writeReg x v).flags = s.flags := by cases x <;> rfl
@[simp] theorem State.writeReg_params : (s.writeReg x v).params = s.params := by cases x <;> rfl
@[simp] theorem State.writeReg_reply : (s.writeReg x v).reply = s.reply := by cases x <;> rfl
@[simp] theorem State.writeReg_memRead (a : Addr) : (s.writeReg x v).memRead a = s.memRead a := by cases x <;> rfl

/-- A register write replaces its slot and no other; the sink discards it (10_state.md R17, R18). -/
theorem State.writeReg_regs (n : Fin 8) :
    (s.writeReg x v).regs.get n = if x = .slot n then v else s.regs.get n := by
  cases x with
  | sink => simp [State.writeReg]
  | slot k =>
    simp only [State.writeReg, State.setRegs, Vector.get_eq_getElem, Reg.slot.injEq, Fin.ext_iff]
    exact Vector.getElem_set _ _

end Registers

section Memory
variable (s : State) (a : Addr) (v : Byte)

@[simp] theorem State.memWrite_pc : (s.memWrite a v).pc = s.pc := rfl
@[simp] theorem State.memWrite_sp : (s.memWrite a v).sp = s.sp := rfl
@[simp] theorem State.memWrite_regs : (s.memWrite a v).regs = s.regs := rfl
@[simp] theorem State.memWrite_flags : (s.memWrite a v).flags = s.flags := rfl
@[simp] theorem State.memWrite_params : (s.memWrite a v).params = s.params := rfl
@[simp] theorem State.memWrite_reply : (s.memWrite a v).reply = s.reply := rfl
@[simp] theorem State.memWrite_mem : (s.memWrite a v).mem = s.mem.write a v := rfl

end Memory

section Stack
variable (s : State) (v : Byte) (w : Addr)

@[simp] theorem push8_mem : (push8 s v).mem = s.mem.write s.stackSlot v := rfl
@[simp] theorem push8_sp : (push8 s v).sp = s.sp + 1 := rfl
@[simp] theorem push8_pc : (push8 s v).pc = s.pc := rfl
@[simp] theorem push8_regs : (push8 s v).regs = s.regs := rfl
@[simp] theorem push8_flags : (push8 s v).flags = s.flags := rfl
@[simp] theorem push8_params : (push8 s v).params = s.params := rfl
@[simp] theorem push8_reply : (push8 s v).reply = s.reply := rfl
@[simp] theorem push8_stackSlot : (push8 s v).stackSlot = stackAddr s.params (s.sp + 1) := rfl

/-- A pop decrements sp, reads the slot it then names, and changes nothing else (20_memory.md R46). -/
theorem pop8_eq : pop8 s = (s.memRead (stackAddr s.params (s.sp - 1)), s.setSp (s.sp - 1)) := rfl

/-- The slots of two successive values of sp differ, also where sp wraps (20_memory.md R44, R50). -/
theorem stackAddr_succ_ne (p : Params) (sp : Byte) : stackAddr p (sp + 1) ≠ stackAddr p sp := by
  intro h
  have := congrArg BitVec.toNat h
  rw [stackAddr, stackAddr] at this
  simp at this
  omega

/-- A 16-bit push is two pushes, the high byte first (20_memory.md R47). -/
theorem push16_eq : push16 s w = push8 (push8 s (highByte w)) (lowByte w) := rfl

/-- What a push leaves to be read (20_memory.md R45). -/
theorem push8_memRead (a : Addr) : (push8 s v).memRead a = if a = s.stackSlot then v else s.memRead a :=
  Memory.read_write _ _ _ _

/-- A 16-bit pop takes the low byte, then the high byte (20_memory.md R48). -/
theorem pop16_eq :
    pop16 s = (joinBytes (s.memRead (stackAddr s.params (s.sp - 1 - 1))) (s.memRead (stackAddr s.params (s.sp - 1))),
      (s.setSp (s.sp - 1)).setSp (s.sp - 1 - 1)) := rfl

end Stack

section Bytes

theorem joinBytes_toNat (hi lo : Byte) : (joinBytes hi lo).toNat = hi.toNat * 256 + lo.toNat := by
  have h := BitVec.toNat_append hi lo
  have hlt : lo.toNat < 2 ^ 8 := lo.isLt
  rw [← Nat.shiftLeft_add_eq_or_of_lt hlt, Nat.shiftLeft_eq] at h
  simpa [joinBytes] using h

@[simp] theorem joinBytes_high_low (v : Addr) : joinBytes (highByte v) (lowByte v) = v := by
  apply BitVec.eq_of_toNat_eq
  rw [joinBytes_toNat]
  simp only [highByte, lowByte, BitVec.extractLsb'_toNat, Nat.shiftRight_eq_div_pow]
  omega

/-- A register pair's address as a number, the first register giving the high byte (20_memory.md R43). -/
theorem pairAddress_toNat (s : State) (a b : Reg) :
    (pairAddress s a b).toNat = (s.readReg a).toNat * 256 + (s.readReg b).toNat := joinBytes_toNat _ _

theorem highByte_toNat (v : Addr) : (highByte v).toNat = v.toNat / 256 := by
  simp only [highByte, BitVec.extractLsb'_toNat, Nat.shiftRight_eq_div_pow]; omega

theorem lowByte_toNat (v : Addr) : (lowByte v).toNat = v.toNat % 256 := by
  simp only [lowByte, BitVec.extractLsb'_toNat, Nat.shiftRight_zero, Nat.reducePow]

end Bytes

section Ends
variable {s t : State} {x : Reg} {a b v : Byte} {wide : Int} {c : Cond} {target : Addr}

/-- Taking an exception ends the run: there is never a next state (60_exceptions.md R139). -/
theorem raise_not_next {f : Fault} : raise f ≠ .next t := by simp [raise]

theorem haltWith_next : haltWith v s = .next t ↔ t = s.setReply (.halt v) := by
  rw [haltWith, Host.Outcome.next.injEq, eq_comm]

theorem jumpIf_next : jumpIf c target s = .next t ↔ t = if condHolds c s.flags then s.setPc target else s := by
  rw [jumpIf, Host.Outcome.next.injEq, eq_comm]

theorem compareBytes_next :
    compareBytes a b s = .next t ↔ t = s.setFlags (updateFlags ((a.toNat + b.toNat : Nat) : Int)) := by
  rw [compareBytes, Host.Outcome.next.injEq, eq_comm]

theorem storeWide_next :
    storeWide x wide s = .next t ↔ t = (s.setFlags (updateFlags wide)).writeReg x (trunc8 wide) := by
  rw [storeWide, Host.Outcome.next.injEq, eq_comm]

theorem divide_next :
    divide x b s = .next t ↔ b ≠ 0 ∧ storeWide x (roundedQuotient (s.readReg x) b) s = .next t := by
  unfold divide; split <;> simp_all [raise]

theorem modulo_next :
    modulo x b s = .next t ↔ b ≠ 0 ∧ storeWide x (wideRemainder (s.readReg x) b) s = .next t := by
  unfold modulo; split <;> simp_all [raise]

theorem power_next :
    power x b s = .next t ↔ (s.readReg x ≠ 0 ∧ b ≠ 0) ∧
      t = (s.setFlags (pwrFlags (pwrOverflow (s.readReg x) b))).writeReg x (pwrByte (s.readReg x) b) := by
  unfold power
  split
  · simp only [raise, reduceCtorEq, false_iff]; tauto
  · simp only [Host.Outcome.next.injEq, eq_comm (a := t)]; tauto

/-- A zero divisor is DIV's one fault (45_arithmetic.md R106). -/
theorem divide_fault {f : Fault} : divide x b s = .fault f ↔ b = 0 ∧ f = .undefinedOperation .divByZero := by
  unfold divide
  split
  · rename_i h; simp only [raise, Host.Outcome.fault.injEq, h, true_and]; exact eq_comm
  · rename_i h; simp only [storeWide, h, false_and, reduceCtorEq]

/-- A zero modulus is MOD's one fault (45_arithmetic.md R106). -/
theorem modulo_fault {f : Fault} : modulo x b s = .fault f ↔ b = 0 ∧ f = .undefinedOperation .modByZero := by
  unfold modulo
  split
  · rename_i h; simp only [raise, Host.Outcome.fault.injEq, h, true_and]; exact eq_comm
  · rename_i h; simp only [storeWide, h, false_and, reduceCtorEq]

/-- A zero base or exponent is PWR's one fault (46_power_root.md R119). -/
theorem power_fault {f : Fault} :
    power x b s = .fault f ↔ (s.readReg x = 0 ∨ b = 0) ∧ f = .abnormalTermination .pwrZeroOperand := by
  unfold power
  split
  · rename_i h; simp only [raise, Host.Outcome.fault.injEq, h, true_and]; exact eq_comm
  · rename_i h; simp only [h, false_and, reduceCtorEq]

theorem storeRoot_next {z : Bool} :
    storeRoot x z v s = .next t ↔ t = (s.setFlags (rootFlags z)).writeReg x v := by
  rw [storeRoot, Host.Outcome.next.injEq, eq_comm]

theorem call_next : call target s = .next t ↔ t = (push16 s s.pc).setPc target := by
  rw [call, Host.Outcome.next.injEq, eq_comm]

end Ends

section Flags

@[simp] theorem updateFlags_zero (r : Int) : ((updateFlags r).zero = true) ↔ r = 0 := by simp [updateFlags]
@[simp] theorem updateFlags_underflow (r : Int) : ((updateFlags r).underflow = true) ↔ r < 0 := by simp [updateFlags]
@[simp] theorem updateFlags_overflow (r : Int) : ((updateFlags r).overflow = true) ↔ 255 < r := by simp [updateFlags]
@[simp] theorem pwrFlags_fields (b : Bool) :
    (pwrFlags b).zero = false ∧ (pwrFlags b).underflow = false ∧ (pwrFlags b).overflow = b := ⟨rfl, rfl, rfl⟩
@[simp] theorem rootFlags_fields (b : Bool) :
    (rootFlags b).zero = b ∧ (rootFlags b).underflow = false ∧ (rootFlags b).overflow = false := ⟨rfl, rfl, rfl⟩

end Flags

section Tick
variable (s : State)

@[simp] theorem fetchByte_fst : (fetchByte s).1 = s.memRead s.pc := rfl
@[simp] theorem fetchByte_snd : (fetchByte s).2 = s.setPc (s.pc + 1) := rfl

/-- A halted instance takes no step. -/
theorem step_of_halted {code : Byte} (h : s.reply = .halt code) : step s = .refused .stepAfterHalt := by
  simp [step, h]

/-- An instance that has not halted fetches, then stops at a decoding error or executes. -/
theorem step_of_running (h : ∀ code, s.reply ≠ .halt code) :
    step s = match fetchInstr s with
      | .error e => .fault (faultOfDecode e)
      | .ok (i, s') => exec i (s'.setReply .cont) := by
  unfold step
  split
  · next code hc => exact absurd hc (h code)
  · rfl

end Tick

end Sys2Proof.Machine
end

