-- ==== Sys2Proof/Laws/Exec.lean ====
section
/-! SUPPORT. What each instruction is in terms of the shared operations: cite these instead of unfolding a meaning. -/

namespace Sys2Proof.Machine

section
variable (s : State) (x y z : Reg) (n : Byte) (nn : Addr)

theorem exec_nop : exec .nop s = .next s := rfl
theorem exec_movRR : exec (.movRR x y) s = .next (s.writeReg x (s.readReg y)) := rfl
theorem exec_movRI : exec (.movRI x n) s = .next (s.writeReg x n) := rfl
theorem exec_movRA : exec (.movRA x nn) s = .next (s.writeReg x (s.memRead nn)) := rfl
theorem exec_movRP :
    exec (.movRP x y z) s = .next (s.writeReg x (s.memRead (joinBytes (s.readReg y) (s.readReg z)))) := rfl
theorem exec_notR : exec (.notR x) s = .next (s.writeReg x (~~~ s.readReg x)) := rfl
theorem exec_andRR : exec (.andRR x y) s = .next (s.writeReg x (s.readReg x &&& s.readReg y)) := rfl
theorem exec_andRI : exec (.andRI x n) s = .next (s.writeReg x (s.readReg x &&& n)) := rfl
theorem exec_jmpA : exec (.jmpA nn) s = jumpIf .always nn s := rfl
theorem exec_jmpP : exec (.jmpP x y) s = jumpIf .always (joinBytes (s.readReg x) (s.readReg y)) s := rfl
theorem exec_jzA : exec (.jzA nn) s = jumpIf .zero nn s := rfl
theorem exec_jzP : exec (.jzP x y) s = jumpIf .zero (joinBytes (s.readReg x) (s.readReg y)) s := rfl
theorem exec_jnzA : exec (.jnzA nn) s = jumpIf .notZero nn s := rfl
theorem exec_jnzP : exec (.jnzP x y) s = jumpIf .notZero (joinBytes (s.readReg x) (s.readReg y)) s := rfl
theorem exec_juA : exec (.juA nn) s = jumpIf .underflow nn s := rfl
theorem exec_juP : exec (.juP x y) s = jumpIf .underflow (joinBytes (s.readReg x) (s.readReg y)) s := rfl
theorem exec_jnuA : exec (.jnuA nn) s = jumpIf .notUnderflow nn s := rfl
theorem exec_jnuP : exec (.jnuP x y) s = jumpIf .notUnderflow (joinBytes (s.readReg x) (s.readReg y)) s := rfl
theorem exec_joA : exec (.joA nn) s = jumpIf .overflow nn s := rfl
theorem exec_joP : exec (.joP x y) s = jumpIf .overflow (joinBytes (s.readReg x) (s.readReg y)) s := rfl
theorem exec_jnoA : exec (.jnoA nn) s = jumpIf .notOverflow nn s := rfl
theorem exec_jnoP : exec (.jnoP x y) s = jumpIf .notOverflow (joinBytes (s.readReg x) (s.readReg y)) s := rfl
theorem exec_cmpRI : exec (.cmpRI x n) s = compareBytes (s.readReg x) n s := rfl
theorem exec_cmpRR : exec (.cmpRR x y) s = compareBytes (s.readReg x) (s.readReg y) s := rfl
theorem exec_pushR : exec (.pushR x) s = .next (push8 s (s.readReg x)) := rfl
theorem exec_pushI : exec (.pushI n) s = .next (push8 s n) := rfl
theorem exec_popR : exec (.popR x) s = .next ((pop8 s).2.writeReg x (pop8 s).1) := rfl
theorem exec_addRI : exec (.addRI x n) s = storeWide x (wideSum (s.readReg x) n) s := rfl
theorem exec_addRR : exec (.addRR x y) s = storeWide x (wideSum (s.readReg x) (s.readReg y)) s := rfl
theorem exec_subRI : exec (.subRI x n) s = storeWide x (wideSum (s.readReg x) n) s := rfl
theorem exec_subRR : exec (.subRR x y) s = storeWide x (wideSum (s.readReg x) (s.readReg y)) s := rfl
theorem exec_mulRI : exec (.mulRI x n) s = storeWide x (wideProduct (s.readReg x) n) s := rfl
theorem exec_mulRR : exec (.mulRR x y) s = storeWide x (wideProduct (s.readReg x) (s.readReg y)) s := rfl
theorem exec_divRI : exec (.divRI x n) s = divide x n s := rfl
theorem exec_divRR : exec (.divRR x y) s = divide x (s.readReg y) s := rfl
theorem exec_modRI : exec (.modRI x n) s = modulo x n s := rfl
theorem exec_modRR : exec (.modRR x y) s = modulo x (s.readReg y) s := rfl
theorem exec_incR :
    exec (.incR x) s = .next ((s.setFlags (updateFlags (incWide (s.readReg x)))).writeReg x (s.readReg x + 1)) := rfl
theorem exec_decR :
    exec (.decR x) s = .next ((s.setFlags (updateFlags (decWide (s.readReg x)))).writeReg x (s.readReg x - 1)) := rfl
theorem exec_pwrRI : exec (.pwrRI x n) s = power x n s := rfl
theorem exec_pwrRR : exec (.pwrRR x y) s = power x (s.readReg y) s := rfl
theorem exec_sqrtR :
    exec (.sqrtR x) s = storeRoot x (sqrtByte s.params.sqrtMagic (s.readReg x) == 0) (sqrtByte s.params.sqrtMagic (s.readReg x)) s := rfl
theorem exec_fsqrtR :
    exec (.fsqrtR x) s = storeRoot x (fsqrtRounded (s.readReg x) == 0) (trunc8 (fsqrtRounded (s.readReg x) : Int)) s := rfl
theorem exec_callA : exec (.callA nn) s = call nn s := rfl
theorem exec_callP : exec (.callP x y) s = call (joinBytes (s.readReg x) (s.readReg y)) s := rfl
theorem exec_ret : exec .ret s = .next ((pop16 s).2.setPc (pop16 s).1) := rfl
theorem exec_storePR :
    exec (.storePR x y z) s = .next (s.memWrite (joinBytes (s.readReg x) (s.readReg y)) (s.readReg z)) := rfl
theorem exec_storeAR : exec (.storeAR nn x) s = .next (s.memWrite nn (s.readReg x)) := rfl
theorem exec_storePI : exec (.storePI x y n) s = .next (s.memWrite (joinBytes (s.readReg x) (s.readReg y)) n) := rfl
theorem exec_storeAI : exec (.storeAI nn n) s = .next (s.memWrite nn n) := rfl
theorem exec_haltR : exec (.haltR x) s = haltWith (s.readReg x) s := rfl
theorem exec_haltI : exec (.haltI n) s = haltWith n s := rfl
theorem exec_halt : exec .halt s = haltWith 0 s := rfl

end

end Sys2Proof.Machine
end

