-- ==== Sys2Proof/Laws/PerInstr.lean ====
section
/-! SUPPORT. Families of statements made per instruction (LAWS.json): one lemma per constructor of Instr. -/

/-- The encoding of an instruction has the length of its format, under every opcode map (30_encoding.md R63, R68). -/
def Sys2Proof.Laws.EncodedLength.Statement (i : Sys2Proof.Instr) : Prop :=
  ∀ m : Sys2Proof.OpcodeMap, (Sys2Proof.encode m i).length = i.length

namespace Sys2Proof.Laws.EncodedLength

theorem nop : Statement .nop := fun _ => rfl
theorem movRR (x : Reg) (y : Reg) : Statement (.movRR x y) := fun _ => rfl
theorem movRI (x : Reg) (n : Byte) : Statement (.movRI x n) := fun _ => rfl
theorem movRA (x : Reg) (nn : Addr) : Statement (.movRA x nn) := fun _ => rfl
theorem movRP (x : Reg) (y : Reg) (z : Reg) : Statement (.movRP x y z) := fun _ => rfl
theorem notR (x : Reg) : Statement (.notR x) := fun _ => rfl
theorem andRR (x : Reg) (y : Reg) : Statement (.andRR x y) := fun _ => rfl
theorem andRI (x : Reg) (n : Byte) : Statement (.andRI x n) := fun _ => rfl
theorem jmpA (nn : Addr) : Statement (.jmpA nn) := fun _ => rfl
theorem jmpP (x : Reg) (y : Reg) : Statement (.jmpP x y) := fun _ => rfl
theorem jzA (nn : Addr) : Statement (.jzA nn) := fun _ => rfl
theorem jzP (x : Reg) (y : Reg) : Statement (.jzP x y) := fun _ => rfl
theorem jnzA (nn : Addr) : Statement (.jnzA nn) := fun _ => rfl
theorem jnzP (x : Reg) (y : Reg) : Statement (.jnzP x y) := fun _ => rfl
theorem juA (nn : Addr) : Statement (.juA nn) := fun _ => rfl
theorem juP (x : Reg) (y : Reg) : Statement (.juP x y) := fun _ => rfl
theorem jnuA (nn : Addr) : Statement (.jnuA nn) := fun _ => rfl
theorem jnuP (x : Reg) (y : Reg) : Statement (.jnuP x y) := fun _ => rfl
theorem joA (nn : Addr) : Statement (.joA nn) := fun _ => rfl
theorem joP (x : Reg) (y : Reg) : Statement (.joP x y) := fun _ => rfl
theorem jnoA (nn : Addr) : Statement (.jnoA nn) := fun _ => rfl
theorem jnoP (x : Reg) (y : Reg) : Statement (.jnoP x y) := fun _ => rfl
theorem cmpRI (x : Reg) (n : Byte) : Statement (.cmpRI x n) := fun _ => rfl
theorem cmpRR (x : Reg) (y : Reg) : Statement (.cmpRR x y) := fun _ => rfl
theorem pushR (x : Reg) : Statement (.pushR x) := fun _ => rfl
theorem pushI (n : Byte) : Statement (.pushI n) := fun _ => rfl
theorem popR (x : Reg) : Statement (.popR x) := fun _ => rfl
theorem addRI (x : Reg) (n : Byte) : Statement (.addRI x n) := fun _ => rfl
theorem addRR (x : Reg) (y : Reg) : Statement (.addRR x y) := fun _ => rfl
theorem subRI (x : Reg) (n : Byte) : Statement (.subRI x n) := fun _ => rfl
theorem subRR (x : Reg) (y : Reg) : Statement (.subRR x y) := fun _ => rfl
theorem mulRI (x : Reg) (n : Byte) : Statement (.mulRI x n) := fun _ => rfl
theorem mulRR (x : Reg) (y : Reg) : Statement (.mulRR x y) := fun _ => rfl
theorem divRI (x : Reg) (n : Byte) : Statement (.divRI x n) := fun _ => rfl
theorem divRR (x : Reg) (y : Reg) : Statement (.divRR x y) := fun _ => rfl
theorem modRI (x : Reg) (n : Byte) : Statement (.modRI x n) := fun _ => rfl
theorem modRR (x : Reg) (y : Reg) : Statement (.modRR x y) := fun _ => rfl
theorem incR (x : Reg) : Statement (.incR x) := fun _ => rfl
theorem decR (x : Reg) : Statement (.decR x) := fun _ => rfl
theorem pwrRI (x : Reg) (n : Byte) : Statement (.pwrRI x n) := fun _ => rfl
theorem pwrRR (x : Reg) (y : Reg) : Statement (.pwrRR x y) := fun _ => rfl
theorem sqrtR (x : Reg) : Statement (.sqrtR x) := fun _ => rfl
theorem fsqrtR (x : Reg) : Statement (.fsqrtR x) := fun _ => rfl
theorem callA (nn : Addr) : Statement (.callA nn) := fun _ => rfl
theorem callP (x : Reg) (y : Reg) : Statement (.callP x y) := fun _ => rfl
theorem ret : Statement .ret := fun _ => rfl
theorem storePR (x : Reg) (y : Reg) (z : Reg) : Statement (.storePR x y z) := fun _ => rfl
theorem storeAR (nn : Addr) (x : Reg) : Statement (.storeAR nn x) := fun _ => rfl
theorem storePI (x : Reg) (y : Reg) (n : Byte) : Statement (.storePI x y n) := fun _ => rfl
theorem storeAI (nn : Addr) (n : Byte) : Statement (.storeAI nn n) := fun _ => rfl
theorem haltR (x : Reg) : Statement (.haltR x) := fun _ => rfl
theorem haltI (n : Byte) : Statement (.haltI n) := fun _ => rfl
theorem halt : Statement .halt := fun _ => rfl

end Sys2Proof.Laws.EncodedLength
end

