-- ==== Sys2Proof/Tests/Slice0.lean ====
section
/-! SUPPORT. Tests: decoded words, ill-formed terms, single steps, and for each statement with hypotheses a witness
that meets them. Words and results are those of 95_test_vectors.md, or read off the tables of 30_encoding.md R68, R69. -/

namespace Sys2Proof.Tests
open Sys2Proof.Machine

/-! Decoding, under the default opcode map. -/

def dec (bytes : List Byte) : Except DecodeError Instr := decode defaultOpcodeMap (Window.ofBytes bytes)

def r (n : Fin 8) : Reg := .slot n

theorem test_decode_control_move :
    dec [0x00] = .ok .nop ∧ dec [0x01, 0x00, 0xFF] = .ok (.movRR (r 0) .sink) ∧
    dec [0x02, 0x03, 0x80] = .ok (.movRI (r 3) 0x80) ∧ dec [0x03, 0x00, 0x12, 0x34] = .ok (.movRA (r 0) 0x1234) ∧
    dec [0x04, 0x00, 0x01, 0x02] = .ok (.movRP (r 0) (r 1) (r 2)) := by decide

theorem test_decode_bitwise :
    dec [0x05, 0x00] = .ok (.notR (r 0)) ∧ dec [0x06, 0x00, 0x01] = .ok (.andRR (r 0) (r 1)) ∧
    dec [0x07, 0x00, 0xFF] = .ok (.andRI (r 0) 0xFF) := by decide

theorem test_decode_jump_address :
    dec [0x08, 0x12, 0x34] = .ok (.jmpA 0x1234) ∧ dec [0x0A, 0x12, 0x34] = .ok (.jzA 0x1234) ∧
    dec [0x0C, 0x12, 0x34] = .ok (.jnzA 0x1234) ∧ dec [0x0E, 0x12, 0x34] = .ok (.juA 0x1234) ∧
    dec [0x10, 0x12, 0x34] = .ok (.jnuA 0x1234) ∧ dec [0x12, 0x12, 0x34] = .ok (.joA 0x1234) ∧
    dec [0x14, 0x12, 0x34] = .ok (.jnoA 0x1234) := by decide

theorem test_decode_jump_pair :
    dec [0x09, 0xFF, 0xFF] = .ok (.jmpP .sink .sink) ∧ dec [0x0B, 0x00, 0x01] = .ok (.jzP (r 0) (r 1)) ∧
    dec [0x0D, 0x00, 0x01] = .ok (.jnzP (r 0) (r 1)) ∧ dec [0x0F, 0x00, 0x01] = .ok (.juP (r 0) (r 1)) ∧
    dec [0x11, 0x00, 0x01] = .ok (.jnuP (r 0) (r 1)) ∧ dec [0x13, 0x00, 0x01] = .ok (.joP (r 0) (r 1)) ∧
    dec [0x15, 0x00, 0x01] = .ok (.jnoP (r 0) (r 1)) := by decide

theorem test_decode_compare_stack :
    dec [0x16, 0x00, 0x05] = .ok (.cmpRI (r 0) 5) ∧ dec [0x17, 0x00, 0x01] = .ok (.cmpRR (r 0) (r 1)) ∧
    dec [0x18, 0x02] = .ok (.pushR (r 2)) ∧ dec [0x19, 0x07] = .ok (.pushI 7) ∧
    dec [0x1A, 0x00] = .ok (.popR (r 0)) := by decide

theorem test_decode_arithmetic :
    dec [0x1B, 0x00, 0x01] = .ok (.addRI (r 0) 1) ∧ dec [0x1C, 0xFF, 0x00] = .ok (.addRR .sink (r 0)) ∧
    dec [0x1D, 0x00, 0x03] = .ok (.subRI (r 0) 3) ∧ dec [0x1E, 0x00, 0x01] = .ok (.subRR (r 0) (r 1)) ∧
    dec [0x1F, 0x00, 0x10] = .ok (.mulRI (r 0) 16) ∧ dec [0x20, 0x00, 0x01] = .ok (.mulRR (r 0) (r 1)) ∧
    dec [0x21, 0x00, 0x02] = .ok (.divRI (r 0) 2) ∧ dec [0x22, 0x00, 0xFF] = .ok (.divRR (r 0) .sink) ∧
    dec [0x23, 0x00, 0x03] = .ok (.modRI (r 0) 3) ∧ dec [0x24, 0x00, 0x01] = .ok (.modRR (r 0) (r 1)) ∧
    dec [0x25, 0x00] = .ok (.incR (r 0)) ∧ dec [0x26, 0xFF] = .ok (.decR .sink) := by decide

theorem test_decode_power_root_call :
    dec [0x27, 0x00, 0x08] = .ok (.pwrRI (r 0) 8) ∧ dec [0x28, 0x00, 0x01] = .ok (.pwrRR (r 0) (r 1)) ∧
    dec [0x29, 0x00] = .ok (.sqrtR (r 0)) ∧ dec [0x2A, 0x00] = .ok (.fsqrtR (r 0)) ∧
    dec [0x2B, 0x00, 0x10] = .ok (.callA 0x0010) ∧ dec [0x2C, 0x00, 0x01] = .ok (.callP (r 0) (r 1)) ∧
    dec [0x2D] = .ok .ret := by decide

theorem test_decode_store_halt :
    dec [0x2E, 0x00, 0x01, 0x02] = .ok (.storePR (r 0) (r 1) (r 2)) ∧
    dec [0x2F, 0x01, 0x00, 0x03] = .ok (.storeAR 0x0100 (r 3)) ∧
    dec [0x30, 0x00, 0x01, 0x55] = .ok (.storePI (r 0) (r 1) 0x55) ∧
    dec [0x31, 0x12, 0x34, 0xAB] = .ok (.storeAI 0x1234 0xAB) ∧
    dec [0xFD, 0x05] = .ok (.haltR (r 5)) ∧ dec [0xFE, 0x2A] = .ok (.haltI 42) ∧ dec [0xFF] = .ok .halt := by decide

/-- Unassigned opcodes, and illegal registers in fetch order (60_exceptions.md R138). -/
theorem test_decode_refuses :
    dec [0x32] = .error (.unknownOpcode 0x32) ∧ dec [0xFC] = .error (.unknownOpcode 0xFC) ∧
    dec [0x02, 0x08, 0x80] = .error (.illegalRegister 8) ∧ dec [0x04, 0x00, 0x01, 0x09] = .error (.illegalRegister 9) ∧
    dec [0x04, 0x00, 0xFE, 0x09] = .error (.illegalRegister 0xFE) ∧
    dec [0x2F, 0x01, 0x00, 0x0A] = .error (.illegalRegister 10) ∧
    dec [0x21, 0x08, 0x00] = .error (.illegalRegister 8) := by decide

/-- The numbering of spec/opcode_table.json: the first byte is the low one. -/
theorem test_decode_table_word :
    decodeTableWord 8 0x2D = some .ret ∧ decodeTableWord 24 0x80FF02 = some (.movRI .sink 0x80) ∧
    decodeTableWord 32 0xAB341231 = some (.storeAI 0x1234 0xAB) ∧ decodeTableWord 8 0x32 = none := by decide

theorem test_encode :
    encode defaultOpcodeMap (.movRI (r 0) 5) = [0x02, 0x00, 0x05] ∧
    encode defaultOpcodeMap (.storeAR 0x0100 .sink) = [0x2F, 0x01, 0x00, 0xFF] ∧
    encode defaultOpcodeMap (.callA 0x1234) = [0x2B, 0x12, 0x34] := by decide

/-! Ill-formed terms, one for each check of WellFormed. -/

/-- A map with the bytes of NOP and MOV $x,$y exchanged: legal, and not the default. -/
def swappedMap : OpcodeMap := ⟨(defaultOpcodeMap.bytes.set 0 0x01).set 1 0x00⟩

/-- A map that gives NOP the byte of MOV $x,$y. -/
def clashingMap : OpcodeMap := ⟨defaultOpcodeMap.bytes.set 0 0x01⟩

theorem test_wellformed_register_byte :
    ¬ ValidRegByte 8 ∧ ¬ ValidRegByte 254 ∧ ValidRegByte 7 ∧ ValidRegByte 0xFF := by decide

theorem test_wellformed_opcode_map :
    ¬ clashingMap.Legal ∧ ¬ OpcodeMap.Legal ⟨defaultOpcodeMap.bytes.set 2 0x40⟩ ∧
    ¬ OpcodeMap.Legal ⟨defaultOpcodeMap.bytes.set 52 0x40⟩ ∧ swappedMap.Legal := by decide

theorem test_wellformed_params :
    ¬ Params.Legal ⟨defaultOpcodeMap, 0xFF01, 0⟩ ∧ Params.Legal ⟨swappedMap, 0xFF00, 0⟩ := by decide

theorem test_wellformed_instr :
    ¬ Instr.WellFormed clashingMap .nop ∧ ¬ Instr.WellFormed clashingMap (.movRR (r 0) (r 1)) ∧
    Instr.WellFormed clashingMap .ret := by decide

theorem test_wellformed_image :
    ¬ ImageFits (List.replicate 65537 0) ∧ ImageFits (List.replicate 65536 0) := by
  rw [ImageFits, ImageFits, List.length_replicate, List.length_replicate]; decide

/-! Single steps. The instruction stands at 0x0100, as in 95_test_vectors.md. -/

def no : Flags := ⟨false, false, false⟩
def fZ : Flags := ⟨true, false, false⟩
def fU : Flags := ⟨false, true, false⟩
def fO : Flags := ⟨false, false, true⟩

/-- A machine at 0x0100 with these instruction bytes, registers, flags, stack pointer and bytes of memory. -/
def at0100 (bytes : List Byte) (regs : List (Fin 8 × Byte) := []) (flags : Flags := no) (sp : Byte := 0)
    (cells : List (Addr × Byte) := []) : State :=
  let base := { State.reset with pc := 0x0100, flags := flags, sp := sp }
  let loaded := cells.foldl (fun s c => s.memWrite c.1 c.2) (base.setMem (base.mem.writeBytes 0x0100 bytes))
  regs.foldl (fun s c => s.writeReg (.slot c.1) c.2) loaded

/-- What the step gives: x[0] and the flags. -/
def x0 (s : State) : Option (Byte × Flags) := (nextOf (step s)).map fun t => (t.readReg (r 0), t.flags)

/-- What the step gives: pc. -/
def pcOf (s : State) : Option Addr := (nextOf (step s)).map fun t => t.pc

/-- What the step gives: sp, and the byte at an address. -/
def spMem (a : Addr) (s : State) : Option (Byte × Byte) := (nextOf (step s)).map fun t => (t.sp, t.memRead a)

/-- What the step gives: sp, pc and the two bytes that end at 0xFFFF. -/
def spPcTop (s : State) : Option (Byte × Addr × Byte × Byte) :=
  (nextOf (step s)).map fun t => (t.sp, t.pc, t.memRead 0xFFFF, t.memRead 0xFFFE)

def fault (s : State) : Option Fault := faultOf (step s)

theorem test_nop : pcOf (at0100 [0x00]) = some 0x0101 ∧ x0 (at0100 [0x00] [(0, 9)] fZ) = some (9, fZ) := by decide

theorem test_mov_rr : x0 (at0100 [0x01, 0x00, 0x01] [(1, 0x3C)]) = some (0x3C, no) ∧
    x0 (at0100 [0x01, 0x00, 0xFF] [(0, 0x77)]) = some (0, no) := by decide
theorem test_mov_rr_sink : (nextOf (step (at0100 [0x01, 0xFF, 0x01] [(1, 0x77)]))).map (fun t => t.regs) =
    some #v[0, 0x77, 0, 0, 0, 0, 0, 0] := by decide
theorem test_mov_ri : (nextOf (step (at0100 [0x02, 0x03, 0x80]))).map (fun t => t.readReg (r 3)) = some 0x80 := by
  decide
theorem test_mov_ra : x0 (at0100 [0x03, 0x00, 0x12, 0x34] (cells := [(0x1234, 0x99)])) = some (0x99, no) ∧
    x0 (at0100 [0x03, 0x00, 0x01, 0x00]) = some (0x03, no) := by decide
theorem test_mov_rp : x0 (at0100 [0x04, 0x00, 0x00, 0x01] [(0, 0x12), (1, 0x34)] (cells := [(0x1234, 0x99)])) =
    some (0x99, no) ∧ x0 (at0100 [0x04, 0x00, 0xFF, 0xFF] [(0, 5)]) = some (0, no) := by decide

theorem test_not : x0 (at0100 [0x05, 0x00] [(0, 0x5A)] fZ) = some (0xA5, fZ) := by decide
theorem test_and_rr : x0 (at0100 [0x06, 0x00, 0x01] [(0, 0xF0), (1, 0x0F)]) = some (0x00, no) ∧
    x0 (at0100 [0x06, 0x00, 0xFF] [(0, 0xAB)]) = some (0x00, no) := by decide
theorem test_and_ri : x0 (at0100 [0x07, 0x00, 0xFF] [(0, 0xAB)]) = some (0xAB, no) := by decide

theorem test_jmp : pcOf (at0100 [0x08, 0x12, 0x34]) = some 0x1234 ∧ pcOf (at0100 [0x09, 0xFF, 0xFF]) = some 0 := by
  decide
theorem test_jz_address : pcOf (at0100 [0x0A, 0x12, 0x34] [] fZ) = some 0x1234 ∧
    pcOf (at0100 [0x0A, 0x12, 0x34]) = some 0x0103 := by decide
theorem test_jz_pair : pcOf (at0100 [0x0B, 0x00, 0x01] [(0, 0x12), (1, 0x34)] fZ) = some 0x1234 ∧
    fault (at0100 [0x0B, 0x00, 0x08]) = some (.illegalRegister 8) := by decide
theorem test_jnz_address : pcOf (at0100 [0x0C, 0x12, 0x34] [] fU) = some 0x1234 ∧
    pcOf (at0100 [0x0C, 0x12, 0x34] [] fZ) = some 0x0103 := by decide
theorem test_jnz_pair : pcOf (at0100 [0x0D, 0x00, 0x01] [(0, 0x12), (1, 0x34)] fZ) = some 0x0103 ∧
    pcOf (at0100 [0x0D, 0x00, 0x01] [(0, 0x12), (1, 0x34)]) = some 0x1234 := by decide
theorem test_ju_address : pcOf (at0100 [0x0E, 0x12, 0x34] [] fU) = some 0x1234 ∧
    pcOf (at0100 [0x0E, 0x12, 0x34] [] fO) = some 0x0103 := by decide
theorem test_ju_pair : pcOf (at0100 [0x0F, 0x00, 0x01] [(0, 0x12), (1, 0x34)] fU) = some 0x1234 ∧
    pcOf (at0100 [0x0F, 0x00, 0x01] [(0, 0x12), (1, 0x34)] fZ) = some 0x0103 := by decide
theorem test_jnu_address : pcOf (at0100 [0x10, 0x12, 0x34] [] fU) = some 0x0103 ∧
    pcOf (at0100 [0x10, 0x12, 0x34] [] fO) = some 0x1234 := by decide
theorem test_jnu_pair : pcOf (at0100 [0x11, 0x00, 0x01] [(0, 0x12), (1, 0x34)] fU) = some 0x0103 ∧
    pcOf (at0100 [0x11, 0x00, 0x01] [(0, 0x12), (1, 0x34)] fZ) = some 0x1234 := by decide
theorem test_jo_address : pcOf (at0100 [0x12, 0x12, 0x34] [] fO) = some 0x1234 ∧
    pcOf (at0100 [0x12, 0x12, 0x34] [] fU) = some 0x0103 := by decide
theorem test_jo_pair : pcOf (at0100 [0x13, 0x00, 0x01] [(0, 0x12), (1, 0x34)] fO) = some 0x1234 ∧
    pcOf (at0100 [0x13, 0x00, 0x01] [(0, 0x12), (1, 0x34)] fZ) = some 0x0103 := by decide
theorem test_jno_address : pcOf (at0100 [0x14, 0x12, 0x34]) = some 0x1234 ∧
    pcOf (at0100 [0x14, 0x12, 0x34] [] fO) = some 0x0103 := by decide
theorem test_jno_pair : pcOf (at0100 [0x15, 0x00, 0x01] [(0, 0x12), (1, 0x34)] fO) = some 0x0103 ∧
    pcOf (at0100 [0x15, 0x00, 0x01] [(0, 0x12), (1, 0x34)] fU) = some 0x1234 := by decide

theorem test_cmp_ri : x0 (at0100 [0x16, 0x00, 0x05] [(0, 5)]) = some (5, no) ∧
    x0 (at0100 [0x16, 0x00, 0x01] [(0, 255)]) = some (255, fO) := by decide
theorem test_cmp_rr : x0 (at0100 [0x17, 0x00, 0x01] [(0, 200), (1, 100)]) = some (200, fO) ∧
    x0 (at0100 [0x17, 0xFF, 0xFF] [] fO) = some (0, fZ) := by decide

theorem test_push_r : spMem 0xFFFF (at0100 [0x18, 0x02] [(2, 0xAA)]) = some (1, 0xAA) ∧
    spMem 0xFFFA (at0100 [0x18, 0xFF] (sp := 5)) = some (6, 0) := by decide
theorem test_push_i : spMem 0xFF00 (at0100 [0x19, 0x07] (sp := 255)) = some (0, 7) := by decide
theorem test_pop : x0 (at0100 [0x1A, 0x00] (sp := 1) (cells := [(0xFFFF, 0x42)])) = some (0x42, no) ∧
    spMem 0xFF00 (at0100 [0x1A, 0x00] (cells := [(0xFF00, 0x5A)])) = some (255, 0x5A) := by decide
theorem test_pop_wraps : x0 (at0100 [0x1A, 0x00] (cells := [(0xFF00, 0x5A)])) = some (0x5A, no) := by decide

theorem test_add_ri : x0 (at0100 [0x1B, 0x00, 0x01] [(0, 255)]) = some (0, fO) ∧
    x0 (at0100 [0x1B, 0x00, 0x01] [(0, 254)] fZ) = some (255, no) := by decide
theorem test_add_rr : x0 (at0100 [0x1C, 0x00, 0x00] [(0, 128)]) = some (0, fO) ∧
    x0 (at0100 [0x1C, 0xFF, 0x00] [(0, 9)]) = some (9, no) := by decide
theorem test_sub_ri : x0 (at0100 [0x1D, 0x00, 0x03] [(0, 10)]) = some (13, no) ∧
    x0 (at0100 [0x1D, 0x00, 0x00]) = some (0, fZ) := by decide
theorem test_sub_rr : x0 (at0100 [0x1E, 0x00, 0x01] [(0, 200), (1, 100)]) = some (44, fO) := by decide
theorem test_mul_ri : x0 (at0100 [0x1F, 0x00, 0x10] [(0, 16)]) = some (0, fO) ∧
    x0 (at0100 [0x1F, 0x00, 0x00] [(0, 77)]) = some (0, fZ) := by decide
theorem test_mul_rr : x0 (at0100 [0x20, 0x00, 0x01] [(0, 255), (1, 255)]) = some (1, fO) := by decide
theorem test_div_ri : x0 (at0100 [0x21, 0x00, 0x02] [(0, 5)]) = some (3, no) ∧
    x0 (at0100 [0x21, 0x00, 0x03] [(0, 1)]) = some (0, fZ) := by decide
theorem test_div_rr : x0 (at0100 [0x22, 0x00, 0x01] [(0, 255), (1, 2)]) = some (128, no) ∧
    fault (at0100 [0x22, 0x00, 0xFF] [(0, 9)]) = some (.undefinedOperation .divByZero) := by decide
theorem test_mod_ri : x0 (at0100 [0x23, 0x00, 0x03] [(0, 7)]) = some (1, no) ∧
    fault (at0100 [0x23, 0x00, 0x00] [(0, 7)]) = some (.undefinedOperation .modByZero) := by decide
theorem test_mod_rr : x0 (at0100 [0x24, 0x00, 0x01] [(0, 6), (1, 3)]) = some (0, fZ) ∧
    x0 (at0100 [0x24, 0x00, 0x01] [(0, 3), (1, 10)]) = some (3, no) := by decide
theorem test_inc : x0 (at0100 [0x25, 0x00] [(0, 255)]) = some (0, fO) ∧
    x0 (at0100 [0x25, 0x00] [(0, 0)] ⟨true, true, false⟩) = some (1, no) := by decide
theorem test_dec : x0 (at0100 [0x26, 0x00] [(0, 0)]) = some (255, fU) ∧
    x0 (at0100 [0x26, 0x00] [(0, 1)]) = some (0, fZ) := by decide
theorem test_dec_sink : x0 (at0100 [0x26, 0xFF] [(0, 7)]) = some (7, fU) := by decide

theorem test_pwr_ri : x0 (at0100 [0x27, 0x00, 0x08] [(0, 2)]) = some (0, fO) ∧
    x0 (at0100 [0x27, 0x00, 0x01] [(0, 254)] ⟨true, false, true⟩) = some (254, no) := by decide
theorem test_pwr_zero : fault (at0100 [0x27, 0x00, 0x04]) = some (.abnormalTermination .pwrZeroOperand) ∧
    fault (at0100 [0x27, 0x09, 0x00]) = some (.illegalRegister 9) := by decide
theorem test_pwr_rr : x0 (at0100 [0x28, 0x00, 0x01] [(0, 2), (1, 7)]) = some (128, no) ∧
    x0 (at0100 [0x28, 0x00, 0x01] [(0, 2), (1, 30)]) = some (0, fO) := by decide
theorem test_sqrt : x0 (at0100 [0x29, 0x00] [(0, 110)]) = some (11, no) ∧
    x0 (at0100 [0x29, 0x00]) = some (0, fZ) := by decide
theorem test_sqrt_top : x0 (at0100 [0x29, 0x00] [(0, 240)]) = some (16, no) ∧
    x0 (at0100 [0x29, 0x00] [(0, 2)] fO) = some (1, no) := by decide
theorem test_fsqrt : x0 (at0100 [0x2A, 0x00] [(0, 110)]) = some (10, no) ∧
    x0 (at0100 [0x2A, 0x00] [(0, 241)] fU) = some (16, no) := by decide

theorem test_call_a : spPcTop (at0100 [0x2B, 0x12, 0x34]) = some (2, 0x1234, 0x01, 0x03) := by decide
theorem test_call_a_wraps :
    spPcTop ((State.reset.setPc 0xFFFD).setMem (State.reset.mem.writeBytes 0xFFFD [0x2B, 0x12, 0x34])) =
      some (2, 0x1234, 0, 0) := by decide
theorem test_call_p : spPcTop (at0100 [0x2C, 0x00, 0x01] [(0, 0x20), (1, 0x05)]) = some (2, 0x2005, 0x01, 0x03) ∧
    fault (at0100 [0x2C, 0x00, 0x80]) = some (.illegalRegister 0x80) := by decide
theorem test_ret : spPcTop (at0100 [0x2D] (sp := 2) (cells := [(0xFFFF, 0x12), (0xFFFE, 0x34)])) =
    some (0, 0x1234, 0x12, 0x34) := by decide
theorem test_ret_wraps : spPcTop (at0100 [0x2D] (cells := [(0xFF00, 0x34), (0xFF01, 0x12)])) =
    some (254, 0x1234, 0, 0) := by decide

theorem test_store_pr : spMem 0x2001 (at0100 [0x2E, 0x00, 0x01, 0x00] [(0, 0x20), (1, 0x01)]) = some (0, 0x20) ∧
    spMem 0 (at0100 [0x2E, 0xFF, 0xFF, 0xFF] (cells := [(0, 0x33)])) = some (0, 0) := by decide
theorem test_store_ar : spMem 0x0100 (at0100 [0x2F, 0x01, 0x00, 0x03] [(3, 0x7F)]) = some (0, 0x7F) := by decide
theorem test_store_pi : spMem 0xFF00 (at0100 [0x30, 0x00, 0x01, 0x55] [(0, 0xFF)]) = some (0, 0x55) := by decide
theorem test_store_ai : spMem 0x1234 (at0100 [0x31, 0x12, 0x34, 0xAB]) = some (0, 0xAB) := by decide

theorem test_halt : exitStatus (step (at0100 [0xFF])) = some 0 ∧ pcOf (at0100 [0xFF]) = some 0x0101 := by decide
theorem test_halt_i : exitStatus (step (at0100 [0xFE, 0x2A])) = some 42 := by decide
theorem test_halt_r : exitStatus (step (at0100 [0xFD, 0x05] [(5, 200)])) = some 200 ∧
    exitStatus (step (at0100 [0xFD, 0x08])) = some 139 := by decide
theorem test_unknown_opcode : fault (at0100 [0x32]) = some (.abnormalTermination (.unknownOpcode 0x32)) ∧
    exitStatus (step (at0100 [0xFC])) = some 134 := by decide

/-- The push order: 0x1234 at sp = 0 (95_test_vectors.md E2). -/
theorem test_push16 : (push16 State.reset 0x1234).mem = [(0xFFFE, 0x34), (0xFFFF, 0x12)] ∧
    (pop16 (push16 State.reset 0x1234)).1 = 0x1234 := by decide

/-- LOAD (95_test_vectors.md E1). -/
theorem test_load : (nextOf (load [0xAA, 0xBB, 0xCC] State.reset)).map (fun t => (t.mem, t.reply)) =
    some ([(0, 0xAA), (1, 0xBB), (2, 0xCC)], .ok) := by decide
theorem load_too_large (image : List Byte) (h : 65536 < image.length) :
    faultOf (load image State.reset) = some .programTooLarge := by
  simp [load, h, State.reset, State.create, raise, faultOf]
theorem test_load_too_large : faultOf (load (List.replicate 65537 0) State.reset) = some .programTooLarge :=
  load_too_large _ (by rw [List.length_replicate]; decide)

/-- The table's word stands where the next step fetches. -/
theorem test_with_fetch_word :
    (nextOf (step (State.reset.withFetchWord 24 0x050002))).map (fun t => (t.readReg (r 0), t.pc)) = some (5, 3) := by
  decide

theorem test_memory_canonical : Memory.write [(3, 1)] 3 0 = [] ∧ Memory.write [(3, 1)] 2 7 = [(2, 7), (3, 1)] ∧
    ¬ Memory.wf [(3, 0)] ∧ ¬ Memory.wf [(3, 1), (2, 1)] := by decide

/-! For each statement with hypotheses, a state and operands that meet all of them, at boundary values. -/

theorem not_halted (s : State) (h : s.reply = .idle) : ¬ Halted s := fun ⟨_, hc⟩ => by rw [h] at hc; cases hc

theorem witness_DecodeOfEncodeIsTheInstruction :
    Instr.WellFormed defaultOpcodeMap (.storePI (r 7) .sink 0xFF) ∧ Instr.WellFormed swappedMap .nop := by decide

theorem witness_EncodeOfDecodeIsTheBytes :
    decode swappedMap ⟨0x01, 0x00, 0x05, 0xFF⟩ = .ok .nop ∧
    decode defaultOpcodeMap ⟨0x2F, 0xFF, 0xFF, 0xFF⟩ = .ok (.storeAR 0xFFFF .sink) := by decide

theorem witness_LegalMapIdentifiesEveryInstruction : defaultOpcodeMap.Legal ∧ swappedMap.Legal := by decide

theorem witness_StepRunsTheDecodedInstruction :
    ¬ Halted (at0100 [0x1B, 0x00, 0x01]) ∧
    decode (at0100 [0x1B, 0x00, 0x01]).params.opcodeMap (windowAt (at0100 [0x1B, 0x00, 0x01])) =
      .ok (.addRI (r 0) 1) := ⟨not_halted _ rfl, by decide⟩

theorem witness_UnknownOpcodeEndsTheRun :
    (∀ f : Form, (at0100 [0x32]).params.opcodeMap.opcode f ≠ (at0100 [0x32]).memRead (at0100 [0x32]).pc) ∧
    (∀ f : Form, (at0100 [0xFC]).params.opcodeMap.opcode f ≠ (at0100 [0xFC]).memRead (at0100 [0xFC]).pc) ∧
    ¬ Halted (at0100 [0x32]) ∧ ¬ Halted (at0100 [0xFC]) :=
  ⟨by intro f; cases f <;> decide, by intro f; cases f <;> decide, not_halted _ rfl, not_halted _ rfl⟩

/-- The second of three registers is the first illegal one; the third is illegal too. -/
theorem witness_FirstIllegalRegisterEndsTheRun :
    ¬ Halted (at0100 [0x04, 0xFF, 0x08, 0xFE]) ∧
    defaultOpcodeMap.formOf ((at0100 [0x04, 0xFF, 0x08, 0xFE]).memRead 0x0100) = some .movRP ∧
    2 ∈ Form.movRP.format.regOffsets ∧ ¬ ValidRegByte ((at0100 [0x04, 0xFF, 0x08, 0xFE]).memRead 0x0102) ∧
    (∀ j ∈ Form.movRP.format.regOffsets, j < 2 →
      ValidRegByte ((at0100 [0x04, 0xFF, 0x08, 0xFE]).memRead (0x0100 + BitVec.ofNat 16 j))) :=
  ⟨not_halted _ rfl, by decide⟩

theorem witness_ValidRegisterBytesDecode :
    defaultOpcodeMap.formOf 0x30 = some .storePI ∧
    ∀ k ∈ Form.storePI.format.regOffsets, ValidRegByte ((⟨0x30, 0x07, 0xFF, 0x08⟩ : Window).toBytes.getD k 0) := by
  decide

theorem witness_CreationMeetsTheInvariant :
    defaultParams.Legal ∧ Params.Legal ⟨swappedMap, 0x0000, 0x5F375A86⟩ := by decide

theorem witness_EveryStepKeepsTheInvariant :
    (at0100 [0x31, 0x12, 0x34, 0xAB]).Inv ∧ ∃ t, step (at0100 [0x31, 0x12, 0x34, 0xAB]) = .next t :=
  ⟨by decide, _, rfl⟩

theorem witness_NoStepChangesTheParameters : ∃ t, step (at0100 [0x19, 0x07]) = .next t := ⟨_, rfl⟩

theorem witness_LoadPlacesTheImage :
    (List.replicate 65536 (7 : Byte)).length ≤ 65536 ∧ 65536 < (List.replicate 65537 (7 : Byte)).length := by
  rw [List.length_replicate, List.length_replicate]; decide

theorem witness_LoadHappensOnceBeforeTheFirstStep :
    (State.reset.setReply .cont).reply ≠ .idle ∧ (∃ t, load [0xFF] State.reset = .next t) ∧
    ∃ t, step (at0100 [0x00]) = .next t := ⟨by decide, ⟨_, rfl⟩, _, rfl⟩

theorem witness_CanonicalMemoriesWithEqualBytesAreEqual :
    (Memory.write (Memory.write [] 1 2) 5 7).wf ∧ (Memory.write (Memory.write [] 5 7) 1 2).wf ∧
    ∀ a, Memory.read (Memory.write (Memory.write [] 1 2) 5 7) a =
      Memory.read (Memory.write (Memory.write [] 5 7) 1 2) a := by
  have h : Memory.write (Memory.write [] 1 2) 5 7 = Memory.write (Memory.write [] 5 7) 1 2 := by decide
  exact ⟨by decide, by decide, fun a => by rw [h]⟩

theorem witness_EveryStepKeepsAtMostOneFlag :
    AtMostOneFlag (at0100 [0x26, 0x00] [] fZ).flags ∧ ∃ t, step (at0100 [0x26, 0x00] [] fZ) = .next t :=
  ⟨by decide, _, rfl⟩

theorem witness_StackSlotLiesInTheWindow : defaultParams.stackBase.toNat ≤ 0xFF00 := by decide

theorem witness_MovWritesItsSourceToItsDestination :
    (0x12FF : Addr).toNat = ((at0100 [] [(0, 0x12), (1, 0xFF)]).readReg (r 0)).toNat * 256 +
      ((at0100 [] [(0, 0x12), (1, 0xFF)]).readReg (r 1)).toNat := by decide

theorem witness_JumpToRegisterPairMovesOnlyPc :
    (0x00FF : Addr).toNat = ((at0100 [] [(1, 0xFF)]).readReg .sink).toNat * 256 +
      ((at0100 [] [(1, 0xFF)]).readReg (r 1)).toNat := by decide

theorem witness_DivStoresTheNearestQuotient :
    (1 : Byte) ≠ 0 ∧ (255 : Byte) ≠ 0 ∧ (at0100 [] [(1, 1)]).readReg (r 1) ≠ 0 := by decide

theorem witness_ModStoresTheRemainder :
    (1 : Byte) ≠ 0 ∧ (255 : Byte) ≠ 0 ∧ (at0100 [] [(1, 255)]).readReg (r 1) ≠ 0 := by decide

theorem witness_DivAndModByZeroEndTheRun :
    (at0100 [] [(0, 9)]).readReg .sink = 0 ∧ (at0100 [] [(0, 9)]).readReg (r 1) = 0 := by decide

/-- 2^30 is below 2^31, and 2^31 is not. -/
theorem witness_PwrStoresTheLowByteOrPwrLarge :
    (at0100 [] [(0, 2), (1, 31)]).readReg (r 0) ≠ 0 ∧ (30 : Byte) ≠ 0 ∧
    ((at0100 [] [(0, 2), (1, 31)]).readReg (r 0)).toNat ^ (30 : Byte).toNat < 2 ^ 31 ∧
    (at0100 [] [(0, 2), (1, 31)]).readReg (r 1) ≠ 0 ∧
    2 ^ 31 ≤ ((at0100 [] [(0, 2), (1, 31)]).readReg (r 0)).toNat ^
      ((at0100 [] [(0, 2), (1, 31)]).readReg (r 1)).toNat := by decide

theorem witness_PwrOfAZeroOperandEndsTheRun :
    (at0100 [] [(0, 3)]).readReg (r 1) = 0 ∧ (at0100 [] [(0, 3)]).readReg (r 0) ≠ 0 := by decide

/-- On both sides of the test: 255 = 255^1 and 254 = 254^1. -/
theorem witness_PwrOverflowIsTheLogarithmTest :
    (255 : Byte) ≠ 0 ∧ (254 : Byte) ≠ 0 ∧ (1 : Byte) ≠ 0 ∧ pwrOverflow 255 1 = true ∧ pwrOverflow 254 1 = false := by
  decide

theorem witness_SqrtUnderTheClassicMagicIsTheTable :
    defaultParams.sqrtMagic = 0x5F3759DF ∨ defaultParams.sqrtMagic = 0x5F375A86 := by decide

theorem witness_FsqrtStoresTheNearestRoot :
    (at0100 [] [(0, 1)]).readReg (r 0) ≠ 0 ∧ (at0100 [] [(0, 1)]).readReg (r 1) = 0 := by decide

theorem witness_OnlyHaltRepliesHalt :
    (¬ Halted (at0100 [0xFE, 0x2A]) ∧
      decode (at0100 [0xFE, 0x2A]).params.opcodeMap (windowAt (at0100 [0xFE, 0x2A])) = .ok (.haltI 42) ∧
      ∃ t, step (at0100 [0xFE, 0x2A]) = .next t) ∧
    ¬ Halted (at0100 [0x2D]) ∧ decode (at0100 [0x2D]).params.opcodeMap (windowAt (at0100 [0x2D])) = .ok .ret ∧
      ∃ t, step (at0100 [0x2D]) = .next t :=
  ⟨⟨not_halted _ rfl, by decide, _, rfl⟩, not_halted _ rfl, by decide, _, rfl⟩

theorem witness_OnlyHaltRepliesHalt_codes :
    (¬ Halted (at0100 [0xFF]) ∧ decode (at0100 [0xFF]).params.opcodeMap (windowAt (at0100 [0xFF])) = .ok .halt ∧
      ∃ t, step (at0100 [0xFF]) = .next t) ∧
    ¬ Halted (at0100 [0xFD, 0xFF]) ∧
      decode (at0100 [0xFD, 0xFF]).params.opcodeMap (windowAt (at0100 [0xFD, 0xFF])) = .ok (.haltR .sink) ∧
      ∃ t, step (at0100 [0xFD, 0xFF]) = .next t :=
  ⟨⟨not_halted _ rfl, by decide, _, rfl⟩, not_halted _ rfl, by decide, _, rfl⟩

theorem witness_StepIsRefusedExactlyAfterHalt :
    step (State.reset.setReply (.halt 3)) = .refused .stepAfterHalt ∧ Halted (State.reset.setReply (.halt 3)) :=
  ⟨rfl, 3, rfl⟩

theorem witness_ExecFaultsOnlyOnZeroOperands :
    exec (.divRI (r 0) 0) State.reset = .fault (.undefinedOperation .divByZero) ∧
    exec (.modRR (r 0) .sink) State.reset = .fault (.undefinedOperation .modByZero) ∧
    exec (.pwrRI (r 0) 4) State.reset = .fault (.abnormalTermination .pwrZeroOperand) := ⟨rfl, rfl, rfl⟩

theorem witness_ExitStatusFollowsTheReply :
    (State.reset.setReply (.halt 255)).reply = .halt 255 ∧ conditionCode (.illegalRegister 8) = some 11 ∧
    conditionCode .programTooLarge = some 132 := by decide

theorem witness_OnlyStackInstructionsMoveSp :
    ¬ UsesStack (.movRI (r 0) 5) ∧ ∃ t, exec (.movRI (r 0) 5) State.reset = .next t := ⟨by decide, _, rfl⟩

theorem witness_OnlyStoresAndPushesChangeMemory :
    ¬ WritesMemory .ret ∧ ∃ t, exec .ret State.reset = .next t := ⟨by decide, _, rfl⟩

/-- An address below the window and one above it, with STACK_BASE = 0x8000. -/
theorem witness_StackInstructionsStayInTheWindow :
    (0x8000 : Addr).toNat ≤ 0xFF00 ∧ UsesStack (.pushI 7) ∧
    (∃ t, exec (.pushI 7) (State.create ⟨defaultOpcodeMap, 0x8000, 0⟩ defaultInit) = .next t) ∧
    (0x7FFF : Addr).toNat < (0x8000 : Addr).toNat ∧ (0x8000 : Addr).toNat + 255 < (0x8100 : Addr).toNat :=
  ⟨by decide, by decide, ⟨_, rfl⟩, by decide⟩

theorem witness_OnlyFlagWritersChangeFlags :
    ¬ WritesFlags (.andRI (r 0) 0) ∧ ∃ t, exec (.andRI (r 0) 0) State.reset = .next t := ⟨by decide, _, rfl⟩

theorem witness_OnlyTheDestinationRegisterChanges :
    (∃ t, exec (.addRI (r 0) 1) State.reset = .next t) ∧ destOf (.addRI (r 0) 1) ≠ some (.slot 7) ∧
    (∃ t, exec (.addRI .sink 1) State.reset = .next t) ∧ destOf (.addRI .sink 1) ≠ some (.slot 0) :=
  ⟨⟨_, rfl⟩, by decide, ⟨_, rfl⟩, by decide⟩

theorem witness_OnlyControlTransfersSetPc :
    ¬ SetsPc (.popR (r 0)) ∧ ∃ t, exec (.popR (r 0)) State.reset = .next t := ⟨by decide, _, rfl⟩

/-- DEC of zero sets underflow; a MOV keeps the underflow it finds. -/
theorem witness_OnlyDecSetsUnderflow :
    (∃ t, exec (.decR (r 0)) State.reset = .next t ∧ t.flags.underflow = true) ∧
    ∃ t, exec (.movRI (r 0) 5) (at0100 [] [] fU) = .next t ∧ t.flags.underflow = true :=
  ⟨⟨_, rfl, by decide⟩, _, rfl, by decide⟩

theorem witness_FlagsAreReadOnlyByConditionalJumps :
    ¬ ConditionalJump (.divRI (r 0) 0) ∧
    (exec (.divRI (r 0) 0) State.reset = .fault (.undefinedOperation .divByZero)) ∧
    ¬ ConditionalJump (.jmpA 5) ∧ ∃ t, exec (.jmpA 5) State.reset = .next t :=
  ⟨by decide, rfl, by decide, _, rfl⟩

end Sys2Proof.Tests
end

/-! The fetch: whatever every single byte fetch keeps of the source, the decoder keeps (30_encoding.md R72). On the
machine this says that a fetch moves pc and writes nothing else. -/

namespace Sys2Proof

section Parse
variable {σ β γ : Type}

/-- A parse that succeeds leaves a source with the property `P`. -/
def Leaves (P : σ → Prop) (r : Except DecodeError (β × σ)) : Prop := ∀ b src, r = .ok (b, src) → P src

theorem Leaves.ok {P : σ → Prop} {b : β} {src : σ} (h : P src) : Leaves P (.ok (b, src)) := by
  intro b' src' heq
  cases heq
  exact h

theorem Leaves.error {P : σ → Prop} {e : DecodeError} : Leaves P (.error e : Except DecodeError (β × σ)) := by
  intro b src heq
  cases heq

theorem Leaves.bind {P : σ → Prop} {r : Except DecodeError (β × σ)} {k : β × σ → Except DecodeError (γ × σ)}
    (hr : Leaves P r) (hk : ∀ b src, P src → Leaves P (k (b, src))) : Leaves P (r >>= k) := by
  cases r with
  | error e => exact .error
  | ok p => exact hk p.1 p.2 (hr p.1 p.2 rfl)

variable {next : σ → Byte × σ} {P : σ → Prop} (hnext : ∀ src, P src → P (next src).2) {src : σ} (h : P src)
include hnext h

theorem fetch16_leaves : P (fetch16 next src).2 := hnext _ (hnext _ h)

theorem fetchReg_leaves : Leaves P (fetchReg next src) := by
  unfold fetchReg
  split
  · exact .error
  · exact .ok (hnext _ h)

theorem parseR_leaves (mk : Reg → Instr) : Leaves P (parseR next mk src) :=
  (fetchReg_leaves hnext h).bind fun _ _ hx => .ok hx

theorem parseI_leaves (mk : Byte → Instr) : Leaves P (parseI next mk src) := .ok (hnext _ h)

theorem parseRR_leaves (mk : Reg → Reg → Instr) : Leaves P (parseRR next mk src) :=
  (fetchReg_leaves hnext h).bind fun _ _ hx => (fetchReg_leaves hnext hx).bind fun _ _ hy => .ok hy

theorem parseRI_leaves (mk : Reg → Byte → Instr) : Leaves P (parseRI next mk src) :=
  (fetchReg_leaves hnext h).bind fun _ _ hx => .ok (hnext _ hx)

theorem parseA_leaves (mk : Addr → Instr) : Leaves P (parseA next mk src) := .ok (fetch16_leaves hnext h)

theorem parseRA_leaves (mk : Reg → Addr → Instr) : Leaves P (parseRA next mk src) :=
  (fetchReg_leaves hnext h).bind fun _ _ hx => .ok (fetch16_leaves hnext hx)

theorem parseRRR_leaves (mk : Reg → Reg → Reg → Instr) : Leaves P (parseRRR next mk src) :=
  (fetchReg_leaves hnext h).bind fun _ _ hx => (fetchReg_leaves hnext hx).bind fun _ _ hy =>
    (fetchReg_leaves hnext hy).bind fun _ _ hz => .ok hz

theorem parseAR_leaves (mk : Addr → Reg → Instr) : Leaves P (parseAR next mk src) :=
  (fetchReg_leaves hnext (fetch16_leaves hnext h)).bind fun _ _ hx => .ok hx

theorem parsePI_leaves (mk : Reg → Reg → Byte → Instr) : Leaves P (parsePI next mk src) :=
  (fetchReg_leaves hnext h).bind fun _ _ hx => (fetchReg_leaves hnext hx).bind fun _ _ hy => .ok (hnext _ hy)

theorem parseAI_leaves (mk : Addr → Byte → Instr) : Leaves P (parseAI next mk src) :=
  .ok (hnext _ (fetch16_leaves hnext h))

theorem parseOperands_leaves (f : Form) : Leaves P (parseOperands next f src) := by
  cases f with
  | nop | ret | halt => exact .ok h
  | notR | pushR | popR | incR | decR | sqrtR | fsqrtR | haltR => exact parseR_leaves hnext h _
  | pushI | haltI => exact parseI_leaves hnext h _
  | movRR | andRR | cmpRR | addRR | subRR | mulRR | divRR | modRR | pwrRR
  | jmpP | jzP | jnzP | juP | jnuP | joP | jnoP | callP => exact parseRR_leaves hnext h _
  | movRI | andRI | cmpRI | addRI | subRI | mulRI | divRI | modRI | pwrRI => exact parseRI_leaves hnext h _
  | jmpA | jzA | jnzA | juA | jnuA | joA | jnoA | callA => exact parseA_leaves hnext h _
  | movRA => exact parseRA_leaves hnext h _
  | movRP | storePR => exact parseRRR_leaves hnext h _
  | storeAR => exact parseAR_leaves hnext h _
  | storePI => exact parsePI_leaves hnext h _
  | storeAI => exact parseAI_leaves hnext h _

theorem parse_leaves (m : OpcodeMap) : Leaves P (parse next m src) := by
  unfold parse
  split
  · exact .error
  · exact parseOperands_leaves hnext (hnext _ h) _

end Parse

end Sys2Proof

namespace Sys2Proof.Machine

/-- A fetch moves pc and changes nothing else (20_memory.md R41, 30_encoding.md R72). -/
theorem fetchInstr_eq_setPc {s s' : State} {i : Instr} (h : fetchInstr s = .ok (i, s')) : ∃ a, s' = s.setPc a := by
  have onlyPc : Leaves (fun u => ∃ a, u = s.setPc a) (fetchInstr s) :=
    parse_leaves (by rintro _ ⟨a, rfl⟩; exact ⟨a + 1, rfl⟩) ⟨s.pc, rfl⟩ _
  exact onlyPc i s' h

/-- A step that completes is a fetch that moves pc, the reply Continue, then the execution of what was fetched
(30_encoding.md R72). -/
theorem step_next {s t : State} (h : step s = .next t) :
    ∃ i a, fetchInstr s = .ok (i, s.setPc a) ∧ exec i ((s.setPc a).setReply .cont) = .next t := by
  have running : ∀ code, s.reply ≠ .halt code := by
    intro code hcode
    rw [step_of_halted s hcode] at h
    cases h
  rw [step_of_running s running] at h
  cases hf : fetchInstr s with
  | error e => rw [hf] at h; cases h
  | ok p =>
    obtain ⟨i, s'⟩ := p
    obtain ⟨a, rfl⟩ := fetchInstr_eq_setPc hf
    rw [hf] at h
    exact ⟨i, a, rfl, h⟩

/-! What an instruction that completes can write. -/

/-- The states an instruction can leave: each is the state it ran in after one of the shared operations. None of them
writes the parameters (10_state.md R15). -/
inductive Effect (s : State) : State → Prop where
  | nothing : Effect s s
  | register (x : Reg) (v : Byte) : Effect s (s.writeReg x v)
  | flags (f : Flags) : Effect s (s.setFlags f)
  | registerAndFlags (x : Reg) (v : Byte) (f : Flags) : Effect s ((s.setFlags f).writeReg x v)
  | store (a : Addr) (v : Byte) : Effect s (s.memWrite a v)
  | jump (target : Addr) : Effect s (s.setPc target)
  | push (v : Byte) : Effect s (push8 s v)
  | pop (x : Reg) : Effect s ((pop8 s).2.writeReg x (pop8 s).1)
  | call (target : Addr) : Effect s ((push16 s s.pc).setPc target)
  | ret : Effect s ((pop16 s).2.setPc (pop16 s).1)
  | halt (code : Byte) : Effect s (s.setReply (.halt code))

section Effect
variable {s t u : State} {x : Reg} {a b v : Byte} {wide : Int} {c : Cond} {target : Addr}

theorem Effect.of_next (hu : Effect s u) (h : .next u = (.next t : Host.Outcome State Fault Refusal)) :
    Effect s t :=
  Host.Outcome.next.inj h ▸ hu

theorem Effect.of_jumpIf (h : jumpIf c target s = .next t) : Effect s t := by
  obtain rfl := jumpIf_next.1 h
  split
  · exact .jump target
  · exact .nothing

theorem Effect.of_compareBytes (h : compareBytes a b s = .next t) : Effect s t :=
  compareBytes_next.1 h ▸ .flags _

theorem Effect.of_storeWide (h : storeWide x wide s = .next t) : Effect s t :=
  storeWide_next.1 h ▸ .registerAndFlags _ _ _

theorem Effect.of_divide (h : divide x b s = .next t) : Effect s t := .of_storeWide (divide_next.1 h).2

theorem Effect.of_modulo (h : modulo x b s = .next t) : Effect s t := .of_storeWide (modulo_next.1 h).2

theorem Effect.of_power (h : power x b s = .next t) : Effect s t :=
  (power_next.1 h).2 ▸ .registerAndFlags _ _ _

theorem Effect.of_storeRoot {z : Bool} (h : storeRoot x z v s = .next t) : Effect s t :=
  storeRoot_next.1 h ▸ .registerAndFlags _ _ _

theorem Effect.of_call (h : Machine.call target s = .next t) : Effect s t := call_next.1 h ▸ .call target

theorem Effect.of_haltWith (h : haltWith v s = .next t) : Effect s t := haltWith_next.1 h ▸ .halt v

/-- Every instruction that completes has one of the effects. -/
theorem exec_effect {i : Instr} (h : exec i s = .next t) : Effect s t := by
  cases i with
  | nop => exact .of_next .nothing h
  | movRR | movRI | movRA | movRP | notR | andRR | andRI => exact .of_next (.register _ _) h
  | jmpA | jmpP | jzA | jzP | jnzA | jnzP | juA | juP | jnuA | jnuP | joA | joP | jnoA | jnoP => exact .of_jumpIf h
  | cmpRI | cmpRR => exact .of_compareBytes h
  | pushR | pushI => exact .of_next (.push _) h
  | popR => exact .of_next (.pop _) h
  | addRI | addRR | subRI | subRR | mulRI | mulRR => exact .of_storeWide h
  | divRI | divRR => exact .of_divide h
  | modRI | modRR => exact .of_modulo h
  | incR | decR => exact .of_next (.registerAndFlags _ _ _) h
  | pwrRI | pwrRR => exact .of_power h
  | sqrtR | fsqrtR => exact .of_storeRoot h
  | callA | callP => exact .of_call h
  | ret => exact .of_next .ret h
  | storePR | storeAR | storePI | storeAI => exact .of_next (.store _ _) h
  | haltR | haltI | halt => exact .of_haltWith h

theorem Effect.params_eq (h : Effect s t) : t.params = s.params := by
  cases h with
  | nothing | flags | store | jump | push | call | ret | halt => rfl
  | register | registerAndFlags | pop => exact State.writeReg_params _ _ _

end Effect

/-- Settles O12: the fetch moves pc alone, and no effect of an instruction writes the parameters. -/
theorem noStepChangesTheParameters : Obligations.NoStepChangesTheParameters := by
  intro s t h
  obtain ⟨i, a, -, hexec⟩ := step_next h
  calc t.params
      = ((s.setPc a).setReply .cont).params := (exec_effect hexec).params_eq
    _ = s.params := rfl

/-! What creation starts from. -/

theorem Memory.nil_wf : Memory.wf [] := ⟨.nil, by simp⟩

theorem defaultParams_legal : defaultParams.Legal := by decide

theorem State.create_inv {p : Params} (init : Init) (hp : p.Legal) : (State.create p init).Inv :=
  ⟨Memory.nil_wf, hp⟩

/-- Settles O10: a created memory is empty, so canonical, and the parameters are those given; State.reset is
created with the defaults, which are legal. -/
theorem creationMeetsTheInvariant : Obligations.CreationMeetsTheInvariant :=
  ⟨fun _ init hp => State.create_inv init hp, State.create_inv defaultInit defaultParams_legal⟩

end Sys2Proof.Machine

/-! The state's operations and what each instruction may write of it (10_state.md): the register write and the flag
computations first, then one inversion of `exec` that names the class of Safety.lean each write belongs to. -/

namespace Sys2Proof.Machine

/-! Register writes and flag computations. -/

/-- A register write changes its own register alone, the sink's none (10_state.md R17, R18). -/
theorem State.writeReg_onlyRegister (s : State) (x : Reg) (v : Byte) : OnlyRegister s (s.writeReg x v) x v :=
  ⟨s.writeReg_regs x v, s.writeReg_flags x v, s.writeReg_memRead x v, s.writeReg_pc x v, s.writeReg_sp x v,
    s.writeReg_params x v, s.writeReg_reply x v⟩

theorem State.writeReg_readReg_slot (s : State) (n : Fin 8) (v : Byte) :
    (s.writeReg (.slot n) v).readReg (.slot n) = v := by
  simp [State.writeReg_regs]

theorem State.writeReg_regs_of_ne (s : State) {x : Reg} (v : Byte) {n : Fin 8} (h : x ≠ .slot n) :
    (s.writeReg x v).regs.get n = s.regs.get n := by
  rw [State.writeReg_regs, if_neg h]

@[simp] theorem State.writeReg_sink (s : State) (v : Byte) : s.writeReg .sink v = s := rfl

/-- The three conditions of UpdateFlags exclude each other (10_state.md R25). -/
theorem updateFlags_atMostOneFlag (r : Int) : AtMostOneFlag (updateFlags r) := by
  simp only [AtMostOneFlag, updateFlags_zero, updateFlags_underflow, updateFlags_overflow]
  omega

theorem pwrFlags_atMostOneFlag (b : Bool) : AtMostOneFlag (pwrFlags b) := by simp [AtMostOneFlag]

theorem rootFlags_atMostOneFlag (b : Bool) : AtMostOneFlag (rootFlags b) := by simp [AtMostOneFlag]

theorem updateFlags_eq_none_iff (r : Int) : updateFlags r = ⟨false, false, false⟩ ↔ 1 ≤ r ∧ r ≤ 255 := by
  simp only [updateFlags, Flags.mk.injEq, decide_eq_false_iff_not]
  omega

/-- Settles O17: the write's frame is the one of every register write, and the sink's write is no write. -/
theorem registerWritesReplaceOneSlot : Obligations.RegisterWritesReplaceOneSlot := fun s v =>
  ⟨fun n => ⟨s.readReg_slot n, s.writeReg_readReg_slot n v, s.writeReg_onlyRegister (.slot n) v⟩,
    s.readReg_sink, s.writeReg_sink v⟩

/-- Settles O18: each flag is its comparison of the wide value with 0 or 255, and no two of these hold together. -/
theorem updateFlagsWritesAllThree : Obligations.UpdateFlagsWritesAllThree := fun r =>
  ⟨updateFlags_overflow r, updateFlags_zero r, updateFlags_underflow r, updateFlags_atMostOneFlag r,
    (updateFlags_eq_none_iff r).symm⟩

/-! What an instruction may write, by the classes of Safety.lean. -/

/-- `Effect` with the right to it: a register is written only as the destination, sp by the users of the stack, pc by
the control transfers, memory and the flags by their writers, and the flags written are at most one
(10_state.md R20 to R26, 20_memory.md R36). -/
inductive EffectOf (i : Instr) (s : State) : State → Prop where
  | nothing : EffectOf i s s
  | register {x : Reg} (v : Byte) (dest : destOf i = some x) : EffectOf i s (s.writeReg x v)
  | flags {f : Flags} (writesFlags : WritesFlags i) (one : AtMostOneFlag f) : EffectOf i s (s.setFlags f)
  | registerAndFlags {x : Reg} (v : Byte) {f : Flags} (dest : destOf i = some x) (writesFlags : WritesFlags i)
      (one : AtMostOneFlag f) : EffectOf i s ((s.setFlags f).writeReg x v)
  | store (a : Addr) (v : Byte) (writesMemory : WritesMemory i) : EffectOf i s (s.memWrite a v)
  | jump (target : Addr) (setsPc : SetsPc i) : EffectOf i s (s.setPc target)
  | push (v : Byte) (usesStack : UsesStack i) (writesMemory : WritesMemory i) : EffectOf i s (push8 s v)
  | pop {x : Reg} (dest : destOf i = some x) (usesStack : UsesStack i) :
      EffectOf i s ((pop8 s).2.writeReg x (pop8 s).1)
  | call (target : Addr) (usesStack : UsesStack i) (setsPc : SetsPc i) (writesMemory : WritesMemory i) :
      EffectOf i s ((push16 s s.pc).setPc target)
  | ret (usesStack : UsesStack i) (setsPc : SetsPc i) : EffectOf i s ((pop16 s).2.setPc (pop16 s).1)
  | halt (code : Byte) (isHalt : IsHalt i) : EffectOf i s (s.setReply (.halt code))

section EffectOf
variable {i : Instr} {s t u : State} {x : Reg} {v : Byte} {wide : Int} {c : Cond} {target : Addr}

theorem EffectOf.of_next (hu : EffectOf i s u) (h : .next u = (.next t : Host.Outcome State Fault Refusal)) :
    EffectOf i s t :=
  Host.Outcome.next.inj h ▸ hu

theorem EffectOf.of_jumpIf (setsPc : SetsPc i) (h : jumpIf c target s = .next t) : EffectOf i s t := by
  obtain rfl := jumpIf_next.1 h
  split
  · exact .jump target setsPc
  · exact .nothing

theorem EffectOf.of_storeWide (dest : destOf i = some x) (writesFlags : WritesFlags i)
    (h : storeWide x wide s = .next t) : EffectOf i s t :=
  storeWide_next.1 h ▸ .registerAndFlags _ dest writesFlags (updateFlags_atMostOneFlag _)

/-- Every instruction that completes has an effect it has the right to. -/
theorem exec_effectOf (h : exec i s = .next t) : EffectOf i s t := by
  cases i with
  | nop => exact .of_next .nothing h
  | movRR | movRI | movRA | movRP | notR | andRR | andRI => exact .of_next (.register _ rfl) h
  | jmpA | jmpP | jzA | jzP | jnzA | jnzP | juA | juP | jnuA | jnuP | joA | joP | jnoA | jnoP =>
    exact .of_jumpIf (of_decide_eq_true rfl) h
  | cmpRI | cmpRR =>
    exact compareBytes_next.1 h ▸ .flags (of_decide_eq_true rfl) (updateFlags_atMostOneFlag _)
  | pushR | pushI => exact .of_next (.push _ (of_decide_eq_true rfl) (of_decide_eq_true rfl)) h
  | popR => exact .of_next (.pop rfl (of_decide_eq_true rfl)) h
  | addRI | addRR | subRI | subRR | mulRI | mulRR => exact .of_storeWide rfl (of_decide_eq_true rfl) h
  | divRI | divRR => exact .of_storeWide rfl (of_decide_eq_true rfl) (divide_next.1 h).2
  | modRI | modRR => exact .of_storeWide rfl (of_decide_eq_true rfl) (modulo_next.1 h).2
  | incR | decR =>
    exact .of_next (.registerAndFlags _ rfl (of_decide_eq_true rfl) (updateFlags_atMostOneFlag _)) h
  | pwrRI | pwrRR =>
    exact (power_next.1 h).2 ▸ .registerAndFlags _ rfl (of_decide_eq_true rfl) (pwrFlags_atMostOneFlag _)
  | sqrtR | fsqrtR =>
    exact storeRoot_next.1 h ▸ .registerAndFlags _ rfl (of_decide_eq_true rfl) (rootFlags_atMostOneFlag _)
  | callA | callP =>
    exact call_next.1 h ▸ .call _ (of_decide_eq_true rfl) (of_decide_eq_true rfl) (of_decide_eq_true rfl)
  | ret => exact .of_next (.ret (of_decide_eq_true rfl) (of_decide_eq_true rfl)) h
  | storePR | storeAR | storePI | storeAI => exact .of_next (.store _ _ (of_decide_eq_true rfl)) h
  | haltR | haltI | halt => exact haltWith_next.1 h ▸ .halt _ (of_decide_eq_true rfl)

theorem EffectOf.sp_eq (h : EffectOf i s t) (hi : ¬ UsesStack i) : t.sp = s.sp := by
  cases h with
  | push _ usesStack | pop _ usesStack | call _ usesStack | ret usesStack => exact absurd usesStack hi
  | nothing | flags | store | jump | halt => rfl
  | register | registerAndFlags => exact State.writeReg_sp _ _ _

theorem EffectOf.pc_eq (h : EffectOf i s t) (hi : ¬ SetsPc i) : t.pc = s.pc := by
  cases h with
  | jump _ setsPc | call _ _ setsPc | ret _ setsPc => exact absurd setsPc hi
  | nothing | flags | store | push | halt => rfl
  | register | registerAndFlags | pop => exact State.writeReg_pc _ _ _

theorem EffectOf.flags_eq (h : EffectOf i s t) (hi : ¬ WritesFlags i) : t.flags = s.flags := by
  cases h with
  | flags writesFlags | registerAndFlags _ _ writesFlags => exact absurd writesFlags hi
  | nothing | store | jump | push | call | ret | halt => rfl
  | register | pop => exact State.writeReg_flags _ _ _

/-- The flags after an instruction are those before it, or were written with at most one set (10_state.md R25). -/
theorem EffectOf.flags_eq_or_atMostOneFlag (h : EffectOf i s t) : t.flags = s.flags ∨ AtMostOneFlag t.flags := by
  cases h with
  | flags _ one => exact .inr one
  | registerAndFlags _ _ _ one =>
    rw [State.writeReg_flags]
    exact .inr one
  | nothing | store | jump | push | call | ret | halt => exact .inl rfl
  | register | pop => exact .inl (State.writeReg_flags _ _ _)

theorem EffectOf.regs_eq (h : EffectOf i s t) {n : Fin 8} (hn : destOf i ≠ some (.slot n)) :
    t.regs.get n = s.regs.get n := by
  have other {x : Reg} (dest : destOf i = some x) : x ≠ .slot n := fun hx => hn (hx ▸ dest)
  cases h with
  | register _ dest | registerAndFlags _ dest | pop dest => exact State.writeReg_regs_of_ne _ _ (other dest)
  | nothing | flags | store | jump | push | call | ret | halt => rfl

end EffectOf

/-- Settles O19: the fetch keeps the flags, and the instruction keeps them or writes at most one. -/
theorem everyStepKeepsAtMostOneFlag : Obligations.EveryStepKeepsAtMostOneFlag := by
  intro s t hs h
  obtain ⟨i, a, -, hexec⟩ := step_next h
  rcases (exec_effectOf hexec).flags_eq_or_atMostOneFlag with kept | one
  · rw [kept]
    exact hs
  · exact one

/-- Settles O53: every effect that moves sp is one of a stack instruction. -/
theorem onlyStackInstructionsMoveSp : Obligations.OnlyStackInstructionsMoveSp :=
  fun _ _ _ hi h => (exec_effectOf h).sp_eq hi

/-- Settles O56: every effect that writes the flags is one of a flag writer. -/
theorem onlyFlagWritersChangeFlags : Obligations.OnlyFlagWritersChangeFlags :=
  fun _ _ _ hi h => (exec_effectOf h).flags_eq hi

/-- Settles O57: every effect that writes a register writes the destination. -/
theorem onlyTheDestinationRegisterChanges : Obligations.OnlyTheDestinationRegisterChanges :=
  fun _ _ _ _ h hn => (exec_effectOf h).regs_eq hn

/-- Settles O58: every effect that sets pc is one of a control transfer. -/
theorem onlyControlTransfersSetPc : Obligations.OnlyControlTransfersSetPc :=
  fun _ _ _ hi h => (exec_effectOf h).pc_eq hi

/-! Refusals: an instruction completes or stops with a fault, so only `step` itself refuses. -/

section Refusal
variable (i : Instr) (s : State) (x : Reg) (b : Byte)

theorem refusalOf_divide : refusalOf (divide x b s) = none := by
  unfold divide
  split <;> rfl

theorem refusalOf_modulo : refusalOf (modulo x b s) = none := by
  unfold modulo
  split <;> rfl

theorem refusalOf_power : refusalOf (power x b s) = none := by
  unfold power
  split <;> rfl

/-- No instruction is refused: each has a meaning, and only DIV, MOD and PWR can stop, with a fault. -/
theorem refusalOf_exec : refusalOf (exec i s) = none := by
  cases i with
  | divRI | divRR => exact refusalOf_divide _ _ _
  | modRI | modRR => exact refusalOf_modulo _ _ _
  | pwrRI | pwrRR => exact refusalOf_power _ _ _
  | _ => rfl

theorem exec_ne_refused (r : Refusal) : exec i s ≠ .refused r := by
  intro h
  have hnone := refusalOf_exec i s
  rw [h] at hnone
  cases hnone

end Refusal

theorem step_ne_refused {s : State} (hs : ¬ Halted s) (r : Refusal) : step s ≠ .refused r := by
  rw [step_of_running s fun code hcode => hs ⟨code, hcode⟩]
  cases fetchInstr s with
  | error e => exact nofun
  | ok p => exact exec_ne_refused p.1 _ r

/-- Settles O50: a halted machine refuses, a running one ends its step in a decoding error or in an instruction, and
neither is a refusal. -/
theorem stepIsRefusedExactlyAfterHalt : Obligations.StepIsRefusedExactlyAfterHalt := by
  refine ⟨fun s r => ⟨fun h => ?_, ?_⟩, exec_ne_refused⟩
  · have hs : Halted s := by
      by_contra running
      exact step_ne_refused running r h
    obtain ⟨code, hcode⟩ := hs
    rw [step_of_halted s hcode] at h
    exact ⟨⟨code, hcode⟩, (Host.Outcome.refused.inj h).symm⟩
  · rintro ⟨⟨code, hcode⟩, rfl⟩
    exact step_of_halted s hcode

/-! The flags as an input: replacing them before an instruction is undone by a flag writer, and commutes with every
other instruction that is no conditional jump (10_state.md R27). -/

section ReplacedFlags
variable {i : Instr} (s : State) (f : Flags)

theorem State.setFlags_writeReg (x : Reg) (v : Byte) :
    (s.setFlags f).writeReg x v = (s.writeReg x v).setFlags f := by
  cases x <;> rfl

/-- A flag writer overwrites the flags and does not read them. -/
theorem exec_setFlags_of_writesFlags (hi : WritesFlags i) : exec i (s.setFlags f) = exec i s := by
  cases i with
  | cmpRI | cmpRR | addRI | addRR | subRI | subRR | mulRI | mulRR | divRI | divRR | modRI | modRR | incR | decR
  | pwrRI | pwrRR | sqrtR | fsqrtR => rfl
  | _ => exact absurd hi (of_decide_eq_false rfl)

/-- Every other instruction that is no conditional jump completes, and carries the flags through unread. -/
theorem exec_setFlags_of_not_writesFlags (hj : ¬ ConditionalJump i) (hi : ¬ WritesFlags i) :
    ∃ t, exec i s = .next t ∧ exec i (s.setFlags f) = .next (t.setFlags f) := by
  cases i with
  | nop | jmpA | jmpP | pushR | pushI | callA | callP | ret | storePR | storeAR | storePI | storeAI | haltR | haltI
  | halt => exact ⟨_, rfl, rfl⟩
  | movRR | movRI | movRA | movRP | notR | andRR | andRI =>
    exact ⟨_, rfl, congrArg Host.Outcome.next (s.setFlags_writeReg f _ _)⟩
  | popR => exact ⟨_, rfl, congrArg Host.Outcome.next ((pop8 s).2.setFlags_writeReg f _ _)⟩
  | jzA | jzP | jnzA | jnzP | juA | juP | jnuA | jnuP | joA | joP | jnoA | jnoP =>
    exact absurd (of_decide_eq_true rfl) hj
  | _ => exact absurd (of_decide_eq_true rfl) hi

end ReplacedFlags

/-- Settles O60: with other flags a flag writer ends the same, and any other instruction in the same state but for
the flags it was given. -/
theorem flagsAreReadOnlyByConditionalJumps : Obligations.FlagsAreReadOnlyByConditionalJumps := by
  intro i s f hj
  by_cases hi : WritesFlags i
  · rw [exec_setFlags_of_writesFlags s f hi]
    exact ⟨fun _ hc => hc, fun t ht => ⟨t, ht, rfl, rfl, rfl, rfl, ⟨rfl, rfl⟩, fun _ => rfl⟩⟩
  · obtain ⟨t, ht, hu⟩ := exec_setFlags_of_not_writesFlags s f hj hi
    rw [ht, hu]
    refine ⟨nofun, ?_⟩
    rintro _ ⟨⟩
    exact ⟨t.setFlags f, rfl, rfl, rfl, rfl, rfl, ⟨rfl, rfl⟩, fun hw => absurd hw hi⟩

end Sys2Proof.Machine

/-! Memory: what creation, a load and a step make of the array (20_memory.md). First the array itself, then the stack
window, then what an instruction does to the bytes. -/

namespace Sys2Proof.Machine

/-! The array: a canonical list is determined by the bytes it reads (20_memory.md R33, R38). -/

section Array
variable {cells : List Host.Cell} {c : Host.Cell} {a : Nat} {m n : Memory}

theorem cellAt_of_mem (rising : cells.Pairwise fun c d => c.1 < d.1) (hc : c ∈ cells) : cellAt cells c.1 = c.2 := by
  induction cells with
  | nil => cases hc
  | cons d rest ih =>
    obtain ⟨below, rising⟩ := List.pairwise_cons.1 rising
    rw [cellAt]
    rcases List.mem_cons.1 hc with rfl | hc
    · exact if_pos rfl
    · rw [if_neg (below c hc).ne]
      exact ih rising hc

theorem mem_of_cellAt_ne_unlisted (h : cellAt cells a ≠ Memory.unlisted) : (a, cellAt cells a) ∈ cells := by
  induction cells with
  | nil => exact absurd rfl h
  | cons d rest ih =>
    rw [cellAt] at h ⊢
    split at h
    · next hd => simp [← hd]
    · next hd =>
      rw [if_neg hd]
      exact List.mem_cons_of_mem d (ih h)

/-- The cells of a canonical memory that reads like another are cells of the other. -/
theorem Memory.subset_of_read_eq (hm : m.wf) (h : ∀ a, m.read a = n.read a) : m ⊆ n := by
  intro c hc
  obtain ⟨rising, listed⟩ := hm
  obtain ⟨inside, nonzero⟩ := listed c hc
  have same : cellAt n c.1 = c.2 := by
    have hread := h (BitVec.ofNat 16 c.1)
    rw [Memory.read, Memory.read, BitVec.toNat_ofNat, Nat.mod_eq_of_lt inside] at hread
    rw [← hread, cellAt_of_mem rising hc]
  have hn := mem_of_cellAt_ne_unlisted (same ▸ nonzero)
  rwa [same] at hn

theorem Memory.eq_of_read_eq (hm : m.wf) (hn : n.wf) (h : ∀ a, m.read a = n.read a) : m = n := by
  have nodup {l : Memory} (rising : l.Pairwise fun c d => c.1 < d.1) : l.Nodup :=
    rising.imp fun hlt heq => hlt.ne (congrArg Prod.fst heq)
  have perm : m.Perm n := (List.perm_ext_iff_of_nodup (nodup hm.1) (nodup hn.1)).2 fun c =>
    ⟨fun hc => Memory.subset_of_read_eq hm h hc, fun hc => Memory.subset_of_read_eq hn (fun a => (h a).symm) hc⟩
  exact perm.eq_of_pairwise (fun _ _ _ _ hlt hgt => absurd hgt hlt.asymm) hm.1 hn.1

/-- What writing bytes in a row leaves to be read: the byte at the distance from the start, past the last byte what
was there. At most 65536 bytes wrap around onto none of their own. -/
theorem Memory.read_writeBytes (m : Memory) (start a : Addr) {bytes : List Byte} (fits : bytes.length ≤ 65536) :
    (m.writeBytes start bytes).read a = bytes.getD (a - start).toNat (m.read a) := by
  induction bytes generalizing m start with
  | nil => rfl
  | cons v rest ih =>
    rw [List.length_cons] at fits
    rw [Memory.writeBytes, ih _ _ (by omega), Memory.read_write]
    by_cases ha : a = start
    · subst ha
      have past : rest.length ≤ (a - (a + 1)).toNat := by bv_omega
      rw [if_pos rfl, List.getD_eq_default _ _ past, BitVec.sub_self]
      rfl
    · have next : (a - start).toNat = (a - (start + 1)).toNat + 1 := by bv_omega
      rw [if_neg ha, next, List.getD_cons_succ]

end Array

/-- Settles O15: canonical memories that read alike have the same cells, in the same order. -/
theorem canonicalMemoriesWithEqualBytesAreEqual : Obligations.CanonicalMemoriesWithEqualBytesAreEqual :=
  fun _ _ hm hn h => Memory.eq_of_read_eq hm hn h

/-! LOAD right after creation (20_memory.md R55). -/

section Load
variable {image : List Byte} {s : State}

theorem load_of_idle (hs : s.reply = .idle) (fits : image.length ≤ 65536) :
    load image s = .next ((s.setMem (s.mem.writeBytes 0 image)).setReply .ok) := by
  simp only [load, hs, if_neg (not_lt.2 fits)]

theorem load_of_idle_too_large (hs : s.reply = .idle) (large : 65536 < image.length) :
    load image s = .fault .programTooLarge := by
  simp only [load, hs, if_pos large, raise]

theorem State.create_reply (p : Params) (init : Init) : (State.create p init).reply = .idle := rfl

end Load

/-- Settles O13: the image is written from address 0 on over a memory that is empty, so reads 0. -/
theorem loadPlacesTheImage : Obligations.LoadPlacesTheImage := by
  intro p init image
  refine ⟨fun fits => ⟨_, load_of_idle (State.create_reply p init) fits, fun a => ?_, rfl, rfl, rfl, rfl, rfl, rfl⟩,
    load_of_idle_too_large (State.create_reply p init)⟩
  calc Memory.read (Memory.writeBytes [] 0 image) a
      = image.getD (a - 0).toNat (Memory.read [] a) := Memory.read_writeBytes [] 0 a fits
    _ = image.getD a.toNat 0 := by rw [Memory.read_nil, show a - 0 = a from BitVec.sub_zero a]

/-! The fetch of a byte (20_memory.md R41). -/

/-- Settles O16: the fetch is a read at pc and a new pc; the sum of addresses is modulo 65536. -/
theorem fetchByteReadsAndAdvances : Obligations.FetchByteReadsAndAdvances := fun s =>
  ⟨fetchByte_fst s, BitVec.toNat_add s.pc 1, rfl, fun _ => rfl, rfl, fun _ => rfl, rfl, rfl, rfl⟩

/-! The stack, a window of memory (20_memory.md R44 to R50). -/

section Stack
variable (p : Params) (s : State) (sp : Byte) (v a : Addr)

/-- A legal base leaves room for the whole window, so no slot wraps (20_memory.md R44). -/
theorem stackAddr_toNat (hbase : p.stackBase.toNat ≤ 0xFF00) :
    (stackAddr p sp).toNat = p.stackBase.toNat + (255 - sp.toNat) := by
  rw [stackAddr, BitVec.toNat_add, BitVec.toNat_ofNat]
  omega

/-- No slot is an address outside the window. -/
theorem ne_stackAddr_of_outside (hbase : p.stackBase.toNat ≤ 0xFF00)
    (outside : a.toNat < p.stackBase.toNat ∨ p.stackBase.toNat + 255 < a.toNat) : a ≠ stackAddr p sp := by
  rintro rfl
  rw [stackAddr_toNat p sp hbase] at outside
  omega

@[simp] theorem push16_sp : (push16 s v).sp = s.sp + 1 + 1 := rfl
@[simp] theorem push16_params : (push16 s v).params = s.params := rfl

/-- What a 16-bit push leaves to be read: the high byte in the slot of the old sp, the low byte in the next
(20_memory.md R47). -/
theorem push16_memRead : (push16 s v).memRead a =
    if a = stackAddr s.params (s.sp + 1) then lowByte v else if a = s.stackSlot then highByte v else s.memRead a := by
  rw [push16_eq, push8_memRead, push8_memRead, push8_stackSlot]

theorem push16_memRead_low : (push16 s v).memRead (stackAddr s.params (s.sp + 1)) = lowByte v := by
  rw [push16_memRead, if_pos rfl]

theorem push16_memRead_high : (push16 s v).memRead (stackAddr s.params s.sp) = highByte v := by
  rw [push16_memRead, if_neg (stackAddr_succ_ne s.params s.sp).symm]
  exact if_pos rfl

theorem push16_memRead_other (low : a ≠ stackAddr s.params (s.sp + 1)) (high : a ≠ stackAddr s.params s.sp) :
    (push16 s v).memRead a = s.memRead a := by
  rw [push16_memRead, if_neg low]
  exact if_neg high

/-- A 16-bit pop right after a 16-bit push finds both bytes in the slots they were pushed to, also where sp wraps
(20_memory.md R48, R50). -/
theorem pop16_push16 : (pop16 (push16 s v)).1 = v ∧ (pop16 (push16 s v)).2.sp = s.sp := by
  have back : s.sp + 1 + 1 - 1 = s.sp + 1 := BitVec.add_sub_cancel _ _
  have twiceBack : s.sp + 1 - 1 = s.sp := BitVec.add_sub_cancel _ _
  rw [pop16_eq, push16_sp, push16_params, back, twiceBack, push16_memRead_low, push16_memRead_high]
  exact ⟨joinBytes_high_low v, rfl⟩

end Stack

/-- Settles O20: below the bound the slot's sum does not wrap, and its distance from the base is at most 255. -/
theorem stackSlotLiesInTheWindow : Obligations.StackSlotLiesInTheWindow := by
  intro p sp hbase
  have slot := stackAddr_toNat p sp hbase
  exact ⟨slot, by omega⟩

/-- Settles O21: a 16-bit pop is two pops, the low byte first, and gives back what a 16-bit push put there. -/
theorem pop16InvertsPush16 : Obligations.Pop16InvertsPush16 :=
  ⟨fun _ => ⟨joinBytes_toNat _ _, rfl⟩, pop16_push16⟩

/-! What an instruction does to memory: the canonical form, the writers, and the stack window. -/

section Instructions
variable {i : Instr} {s t : State}

/-- Memory is written by `Memory.write` alone, so every effect keeps the canonical form. -/
theorem Effect.mem_wf (h : Effect s t) (hs : s.mem.wf) : t.mem.wf := by
  cases h with
  | nothing | flags | jump | ret | halt => exact hs
  | register | registerAndFlags | pop =>
    rw [State.writeReg_mem]
    exact hs
  | store | push => exact Memory.write_wf _ _ hs
  | call => exact Memory.write_wf _ _ (Memory.write_wf _ _ hs)

theorem EffectOf.sameMemory (h : EffectOf i s t) (hi : ¬ WritesMemory i) : SameMemory s t := by
  intro a
  cases h with
  | store _ _ writesMemory | push _ _ writesMemory | call _ _ _ writesMemory => exact absurd writesMemory hi
  | nothing | flags | jump | ret | halt => rfl
  | register | registerAndFlags | pop => exact State.writeReg_memRead _ _ _ _

/-- A stack instruction changes no byte but that of a slot (20_memory.md R45 to R48). -/
theorem exec_memRead_of_usesStack (hi : UsesStack i) (h : exec i s = .next t) {a : Addr}
    (noSlot : ∀ sp, a ≠ stackAddr s.params sp) : t.memRead a = s.memRead a := by
  by_cases writes : WritesMemory i
  · cases i with
    | pushR | pushI =>
      obtain rfl := Host.Outcome.next.inj h
      exact (push8_memRead s _ a).trans (if_neg (noSlot s.sp))
    | callA | callP =>
      obtain rfl := call_next.1 h
      exact push16_memRead_other s s.pc a (noSlot _) (noSlot _)
    | popR | ret => exact absurd writes (of_decide_eq_false rfl)
    | _ => exact absurd hi (of_decide_eq_false rfl)
  · exact (exec_effectOf h).sameMemory writes a

end Instructions

/-- Settles O11: the fetch moves pc alone, no effect of an instruction leaves the canonical form, and no step writes
the parameters. -/
theorem everyStepKeepsTheInvariant : Obligations.EveryStepKeepsTheInvariant := by
  intro s t ⟨canonical, legal⟩ h
  obtain ⟨i, a, -, hexec⟩ := step_next h
  have kept : t.params = s.params := noStepChangesTheParameters s t h
  exact ⟨(exec_effect hexec).mem_wf canonical, kept ▸ legal⟩

/-- Settles O54: every effect that writes memory is one of a memory writer. -/
theorem onlyStoresAndPushesChangeMemory : Obligations.OnlyStoresAndPushesChangeMemory :=
  fun _ _ _ hi h => (exec_effectOf h).sameMemory hi

/-- Settles O55: a stack instruction changes bytes of slots alone, and every slot lies in the window. -/
theorem stackInstructionsStayInTheWindow : Obligations.StackInstructionsStayInTheWindow :=
  fun _ s _ hbase hi h a outside =>
    exec_memRead_of_usesStack hi h fun sp => ne_stackAddr_of_outside s.params sp a hbase outside

end Sys2Proof.Machine

/-! The encoding (30_encoding.md): the bytes a decoder takes from its source, then what it makes of them. Where it
succeeds, it has read exactly the encoding of its result; where it fails, it has met a register byte that names
nothing. Both are said of any source, so they serve the window of `decode` and the machine alike. -/

namespace Sys2Proof

/-! The bytes of a source. -/

section Source
variable {σ : Type} (next : σ → Byte × σ)

/-- The source after the next `n` bytes. -/
def skipBytes : Nat → σ → σ
  | 0, src => src
  | n + 1, src => skipBytes n (next src).2

/-- The next `n` bytes of a source. -/
def nextBytes : Nat → σ → List Byte
  | 0, _ => []
  | n + 1, src => (next src).1 :: nextBytes n (next src).2

/-- The byte `k` places on in a source. -/
def byteAt (src : σ) (k : Nat) : Byte := (next (skipBytes next k src)).1

/-- The next bytes of a source are `bytes`, and `src'` is what it is after them. -/
def Reads (src : σ) (bytes : List Byte) (src' : σ) : Prop :=
  nextBytes next bytes.length src = bytes ∧ skipBytes next bytes.length src = src'

variable {next} {src src' : σ}

theorem reads_nil : Reads next src [] src' ↔ src = src' := by simp [Reads, nextBytes, skipBytes]

theorem reads_cons {b : Byte} {bytes : List Byte} :
    Reads next src (b :: bytes) src' ↔ (next src).1 = b ∧ Reads next (next src).2 bytes src' := by
  simp [Reads, nextBytes, skipBytes, and_assoc]

theorem take_nextBytes {n k : Nat} (h : n ≤ k) : (nextBytes next k src).take n = nextBytes next n src := by
  induction n generalizing k src with
  | zero => rfl
  | succ n ih =>
    obtain ⟨k, rfl⟩ := Nat.exists_eq_add_of_lt h
    exact congrArg ((next src).1 :: ·) (ih (by omega))

theorem getD_nextBytes {n k : Nat} (h : k < n) : (nextBytes next n src).getD k 0 = byteAt next src k := by
  induction k generalizing n src with
  | zero =>
    obtain ⟨n, rfl⟩ := Nat.exists_eq_add_of_lt h
    rfl
  | succ k ih =>
    obtain ⟨n, rfl⟩ := Nat.exists_eq_add_of_lt h
    exact ih (by omega)

end Source

/-! Operands: a register by its address byte, an address by its two bytes. -/

section Operands
variable {σ β : Type} {next : σ → Byte × σ} {src src' : σ} {a : Byte} {x : Reg}

theorem resolveReg_toByte (x : Reg) : resolveReg x.toByte = .ok x := by
  cases x with
  | sink => rfl
  | slot n =>
    revert n
    decide

/-- A byte resolves to the register whose address byte it is (30_encoding.md R65). -/
theorem resolveReg_eq_ok : resolveReg a = .ok x ↔ a = x.toByte := by
  constructor
  · intro h
    unfold resolveReg at h
    split at h
    · next sink =>
      cases h
      exact sink
    · split at h
      · cases h
        simp [Reg.toByte]
      · cases h
  · rintro rfl
    exact resolveReg_toByte x

theorem resolveReg_of_valid (h : ValidRegByte a) : ∃ x, resolveReg a = .ok x := by
  rcases h with low | rfl
  · exact ⟨.slot ⟨a.toNat, by omega⟩, resolveReg_eq_ok.2 (by simp [Reg.toByte])⟩
  · exact ⟨.sink, rfl⟩

theorem resolveReg_of_not_valid (h : ¬ ValidRegByte a) : resolveReg a = .error (.illegalRegister a) := by
  obtain ⟨high, notSink⟩ := not_or.1 h
  rw [resolveReg, if_neg notSink, dif_neg (by omega)]

theorem fetchReg_bind_eq_ok {k : Reg × σ → Except DecodeError β} {c : β} :
    (fetchReg next src >>= k) = .ok c ↔ ∃ x : Reg, (next src).1 = x.toByte ∧ k (x, (next src).2) = .ok c := by
  simp only [← resolveReg_eq_ok]
  unfold fetchReg
  cases resolveReg (next src).1 with
  | error e => simp [bind, Except.bind]
  | ok y => simp [bind, Except.bind]

theorem joinBytes_eq_iff {hi lo : Byte} {v : Addr} : joinBytes hi lo = v ↔ hi = highByte v ∧ lo = lowByte v := by
  constructor
  · rintro rfl
    constructor <;> apply BitVec.eq_of_toNat_eq
    · rw [Machine.highByte_toNat, Machine.joinBytes_toNat]; omega
    · rw [Machine.lowByte_toNat, Machine.joinBytes_toNat]; omega
  · rintro ⟨rfl, rfl⟩
    exact Machine.joinBytes_high_low v

theorem reads_address {nn : Addr} {rest : List Byte} :
    Reads next src (highByte nn :: lowByte nn :: rest) src' ↔
      (fetch16 next src).1 = nn ∧ Reads next (fetch16 next src).2 rest src' := by
  simp only [fetch16, joinBytes_eq_iff, reads_cons, and_assoc]

theorem ok_pair_eq_ok {b c : β} :
    (.ok (b, src) : Except DecodeError (β × σ)) = .ok (c, src') ↔ src = src' ∧ b = c := by
  rw [Except.ok.injEq, Prod.mk.injEq, and_comm]

theorem pure_pair_eq_ok {b c : β} :
    (pure (b, src) : Except DecodeError (β × σ)) = .ok (c, src') ↔ src = src' ∧ b = c := ok_pair_eq_ok

end Operands

/-! What each format of operands parses to: the instruction whose operand bytes were read (30_encoding.md R68). -/

section Shapes
variable {σ : Type} {next : σ → Byte × σ} {src src' : σ} {i : Instr}

theorem parseR_eq_ok {mk : Reg → Instr} : parseR next mk src = .ok (i, src') ↔
    ∃ x, Reads next src [x.toByte] src' ∧ mk x = i := by
  simp only [parseR, fetchReg_bind_eq_ok, pure_pair_eq_ok, reads_cons, reads_nil, and_assoc]

theorem parseRR_eq_ok {mk : Reg → Reg → Instr} : parseRR next mk src = .ok (i, src') ↔
    ∃ x y, Reads next src [x.toByte, y.toByte] src' ∧ mk x y = i := by
  simp only [parseRR, fetchReg_bind_eq_ok, pure_pair_eq_ok, reads_cons, reads_nil, and_assoc, exists_and_left]

theorem parseRRR_eq_ok {mk : Reg → Reg → Reg → Instr} : parseRRR next mk src = .ok (i, src') ↔
    ∃ x y z, Reads next src [x.toByte, y.toByte, z.toByte] src' ∧ mk x y z = i := by
  simp only [parseRRR, fetchReg_bind_eq_ok, pure_pair_eq_ok, reads_cons, reads_nil, and_assoc, exists_and_left]

theorem parseI_eq_ok {mk : Byte → Instr} : parseI next mk src = .ok (i, src') ↔
    ∃ n, Reads next src [n] src' ∧ mk n = i := by
  simp only [parseI, ok_pair_eq_ok, reads_cons, reads_nil, and_assoc, exists_eq_left']

theorem parseRI_eq_ok {mk : Reg → Byte → Instr} : parseRI next mk src = .ok (i, src') ↔
    ∃ x n, Reads next src [x.toByte, n] src' ∧ mk x n = i := by
  simp only [parseRI, fetchReg_bind_eq_ok, pure_pair_eq_ok, reads_cons, reads_nil, and_assoc, exists_and_left,
    exists_eq_left']

theorem parseA_eq_ok {mk : Addr → Instr} : parseA next mk src = .ok (i, src') ↔
    ∃ nn, Reads next src [highByte nn, lowByte nn] src' ∧ mk nn = i := by
  simp only [parseA, ok_pair_eq_ok, ↓reads_address, reads_nil, and_assoc, exists_eq_left']

theorem parseRA_eq_ok {mk : Reg → Addr → Instr} : parseRA next mk src = .ok (i, src') ↔
    ∃ x nn, Reads next src [x.toByte, highByte nn, lowByte nn] src' ∧ mk x nn = i := by
  simp only [parseRA, fetchReg_bind_eq_ok, pure_pair_eq_ok, ↓reads_address, reads_cons, reads_nil, and_assoc,
    exists_and_left, exists_eq_left']

theorem parseAR_eq_ok {mk : Addr → Reg → Instr} : parseAR next mk src = .ok (i, src') ↔
    ∃ nn x, Reads next src [highByte nn, lowByte nn, x.toByte] src' ∧ mk nn x = i := by
  simp only [parseAR, fetchReg_bind_eq_ok, pure_pair_eq_ok, ↓reads_address, reads_cons, reads_nil, and_assoc,
    exists_and_left, exists_eq_left']

theorem parsePI_eq_ok {mk : Reg → Reg → Byte → Instr} : parsePI next mk src = .ok (i, src') ↔
    ∃ x y n, Reads next src [x.toByte, y.toByte, n] src' ∧ mk x y n = i := by
  simp only [parsePI, fetchReg_bind_eq_ok, pure_pair_eq_ok, reads_cons, reads_nil, and_assoc, exists_and_left,
    exists_eq_left']

theorem parseAI_eq_ok {mk : Addr → Byte → Instr} : parseAI next mk src = .ok (i, src') ↔
    ∃ nn n, Reads next src [highByte nn, lowByte nn, n] src' ∧ mk nn n = i := by
  simp only [parseAI, ok_pair_eq_ok, ↓reads_address, reads_cons, reads_nil, and_assoc, exists_and_left,
    exists_eq_left']

theorem reads_of_parseOperands {f : Form} (h : parseOperands next f src = .ok (i, src')) :
    i.form = f ∧ Reads next src i.operandBytes src' := by
  cases f with
  | nop | ret | halt =>
    cases h
    exact ⟨rfl, reads_nil.2 rfl⟩
  | notR | pushR | popR | incR | decR | sqrtR | fsqrtR | haltR =>
    obtain ⟨_, reads, rfl⟩ := parseR_eq_ok.1 h
    exact ⟨rfl, reads⟩
  | pushI | haltI =>
    obtain ⟨_, reads, rfl⟩ := parseI_eq_ok.1 h
    exact ⟨rfl, reads⟩
  | movRR | andRR | cmpRR | addRR | subRR | mulRR | divRR | modRR | pwrRR
  | jmpP | jzP | jnzP | juP | jnuP | joP | jnoP | callP =>
    obtain ⟨_, _, reads, rfl⟩ := parseRR_eq_ok.1 h
    exact ⟨rfl, reads⟩
  | movRI | andRI | cmpRI | addRI | subRI | mulRI | divRI | modRI | pwrRI =>
    obtain ⟨_, _, reads, rfl⟩ := parseRI_eq_ok.1 h
    exact ⟨rfl, reads⟩
  | jmpA | jzA | jnzA | juA | jnuA | joA | jnoA | callA =>
    obtain ⟨_, reads, rfl⟩ := parseA_eq_ok.1 h
    exact ⟨rfl, reads⟩
  | movRA =>
    obtain ⟨_, _, reads, rfl⟩ := parseRA_eq_ok.1 h
    exact ⟨rfl, reads⟩
  | movRP | storePR =>
    obtain ⟨_, _, _, reads, rfl⟩ := parseRRR_eq_ok.1 h
    exact ⟨rfl, reads⟩
  | storeAR =>
    obtain ⟨_, _, reads, rfl⟩ := parseAR_eq_ok.1 h
    exact ⟨rfl, reads⟩
  | storePI =>
    obtain ⟨_, _, _, reads, rfl⟩ := parsePI_eq_ok.1 h
    exact ⟨rfl, reads⟩
  | storeAI =>
    obtain ⟨_, _, reads, rfl⟩ := parseAI_eq_ok.1 h
    exact ⟨rfl, reads⟩

theorem parseOperands_of_reads (reads : Reads next src i.operandBytes src') :
    parseOperands next i.form src = .ok (i, src') := by
  cases i with
  | nop | ret | halt => exact ok_pair_eq_ok.2 ⟨reads_nil.1 reads, rfl⟩
  | notR | pushR | popR | incR | decR | sqrtR | fsqrtR | haltR => exact parseR_eq_ok.2 ⟨_, reads, rfl⟩
  | pushI | haltI => exact parseI_eq_ok.2 ⟨_, reads, rfl⟩
  | movRR | andRR | cmpRR | addRR | subRR | mulRR | divRR | modRR | pwrRR
  | jmpP | jzP | jnzP | juP | jnuP | joP | jnoP | callP => exact parseRR_eq_ok.2 ⟨_, _, reads, rfl⟩
  | movRI | andRI | cmpRI | addRI | subRI | mulRI | divRI | modRI | pwrRI =>
    exact parseRI_eq_ok.2 ⟨_, _, reads, rfl⟩
  | jmpA | jzA | jnzA | juA | jnuA | joA | jnoA | callA => exact parseA_eq_ok.2 ⟨_, reads, rfl⟩
  | movRA => exact parseRA_eq_ok.2 ⟨_, _, reads, rfl⟩
  | movRP | storePR => exact parseRRR_eq_ok.2 ⟨_, _, _, reads, rfl⟩
  | storeAR => exact parseAR_eq_ok.2 ⟨_, _, reads, rfl⟩
  | storePI => exact parsePI_eq_ok.2 ⟨_, _, _, reads, rfl⟩
  | storeAI => exact parseAI_eq_ok.2 ⟨_, _, reads, rfl⟩

/-- The operands of a form parse to the instruction of that form whose operand bytes they are (30_encoding.md R64,
R67, R68). -/
theorem parseOperands_eq_ok {f : Form} :
    parseOperands next f src = .ok (i, src') ↔ i.form = f ∧ Reads next src i.operandBytes src' := by
  refine ⟨reads_of_parseOperands, ?_⟩
  rintro ⟨rfl, reads⟩
  exact parseOperands_of_reads reads

end Shapes

/-! Opcode bytes: which of them a map gives to which form (30_encoding.md R63, R69). -/

section Opcode
variable {m : OpcodeMap} {f g : Form} {op : Byte} {i : Instr}

/-- The table of all forms is in the order of their places. -/
theorem Form.all_getElem?_index (f : Form) : Form.all[f.index.val]? = some f := by cases f <;> rfl

theorem Form.mem_all (f : Form) : f ∈ Form.all := List.mem_of_getElem? f.all_getElem?_index

theorem Form.index_injective : Function.Injective Form.index := by
  intro f g h
  have same := f.all_getElem?_index
  rw [h, g.all_getElem?_index] at same
  exact (Option.some.inj same).symm

/-- The byte that identifies a form is the map's byte for it. -/
theorem OpcodeMap.opcode_of_formOf (h : m.formOf op = some f) : m.opcode f = op :=
  beq_iff_eq.1 (List.find?_some (p := fun f => m.opcode f == op) h)

/-- A byte that the map gives to one form alone identifies it. -/
theorem OpcodeMap.formOf_opcode_of_unique (unique : ∀ g ∈ Form.all, m.opcode g = m.opcode f → g = f) :
    m.formOf (m.opcode f) = some f := by
  cases h : m.formOf (m.opcode f) with
  | none => exact absurd (beq_self_eq_true _) (List.find?_eq_none.1 h f f.mem_all)
  | some g => rw [unique g g.mem_all (m.opcode_of_formOf h)]

theorem OpcodeMap.opcode_injective (distinct : m.bytes.toList.Nodup) : Function.Injective m.opcode := by
  intro f g h
  apply Form.index_injective
  have place (k : Fin 53) : m.bytes.get k = m.bytes.toList[k.val]'(by simp) := by simp [Vector.get_eq_getElem]
  rw [OpcodeMap.opcode, OpcodeMap.opcode, place, place, distinct.getElem_inj_iff] at h
  exact Fin.ext h

end Opcode

/-! One instruction. -/

section Parse
variable {σ : Type} {next : σ → Byte × σ} {m : OpcodeMap} {src src' : σ} {i : Instr}

theorem reads_encode : Reads next src (encode m i) src' ↔
    (next src).1 = m.opcode i.form ∧ Reads next (next src).2 i.operandBytes src' := reads_cons

/-- What parses is an encoding whose opcode byte identifies its form, and nothing else does (30_encoding.md R63). -/
theorem parse_eq_ok : parse next m src = .ok (i, src') ↔
    m.formOf (m.opcode i.form) = some i.form ∧ Reads next src (encode m i) src' := by
  rw [reads_encode]
  unfold parse
  constructor
  · intro h
    split at h
    · cases h
    · next f hf =>
      obtain ⟨rfl, reads⟩ := parseOperands_eq_ok.1 h
      have opcode := m.opcode_of_formOf hf
      exact ⟨opcode ▸ hf, opcode.symm, reads⟩
  · rintro ⟨hf, opcode, reads⟩
    rw [opcode, hf]
    exact parseOperands_eq_ok.2 ⟨rfl, reads⟩

theorem Instr.length_le_four (i : Instr) : i.length ≤ 4 := by
  unfold Instr.length
  cases i.form.format <;> decide

theorem encode_length (m : OpcodeMap) (i : Instr) : (encode m i).length = i.length := by cases i <;> rfl

/-- An encoding is read where the next four bytes start with it: no instruction is longer (30_encoding.md R63). -/
theorem reads_encode_iff_take : Reads next src (encode m i) src' ↔
    (nextBytes next 4 src).take i.length = encode m i ∧ skipBytes next i.length src = src' := by
  rw [Reads, encode_length, take_nextBytes i.length_le_four]

end Parse

section Window
variable {m : OpcodeMap} {w : Window} {i : Instr}

theorem decode_eq_ok : decode m w = .ok i ↔
    m.formOf (m.opcode i.form) = some i.form ∧ w.toBytes.take i.length = encode m i := by
  have parsed : decode m w = .ok i ↔ ∃ w', parse Window.next m w = .ok (i, w') := by
    unfold decode
    cases parse Window.next m w <;> simp [Except.map, Prod.ext_iff]
  have bytes : nextBytes Window.next 4 w = w.toBytes := rfl
  simp [parsed, parse_eq_ok, reads_encode_iff_take, bytes]

theorem Window.toBytes_ofBytes_take (bytes : List Byte) {n : Nat} (four : n ≤ 4) (enough : n ≤ bytes.length) :
    (Window.ofBytes bytes).toBytes.take n = bytes.take n := by
  have listed : (Window.ofBytes bytes).toBytes = (List.range 4).map (bytes.getD · 0) := rfl
  rw [listed, ← List.map_take, List.take_range, min_eq_left four]
  apply List.ext_getElem
  · simpa using enough
  · intro k hk _
    have inside : k < bytes.length := by simp at hk; omega
    simp [inside]

end Window

/-! Illegal register bytes: the first one in fetch order is why a decode fails (30_encoding.md R65, 60_exceptions.md
R138). -/

section Illegal
variable {σ β : Type} {next : σ → Byte × σ} {src : σ} {a : Byte} {regs : List Byte}

/-- The first register address byte that names nothing. -/
def firstIllegal (regs : List Byte) : Option Byte := regs.find? fun a => !decide (ValidRegByte a)

theorem firstIllegal_nil : firstIllegal [] = none := rfl

theorem firstIllegal_cons_of_valid (h : ValidRegByte a) : firstIllegal (a :: regs) = firstIllegal regs :=
  List.find?_cons_of_neg (by simpa only [Bool.not_eq_true', decide_eq_false_iff_not, not_not] using h)

theorem firstIllegal_cons_of_not_valid (h : ¬ ValidRegByte a) : firstIllegal (a :: regs) = some a :=
  List.find?_cons_of_pos (by simpa using h)

theorem firstIllegal_eq_none (h : ∀ a ∈ regs, ValidRegByte a) : firstIllegal regs = none :=
  List.find?_eq_none.2 (by simpa only [Bool.not_eq_true', decide_eq_false_iff_not, not_not] using h)

/-- Among bytes at rising places, an illegal one after legal ones is the first illegal one. -/
theorem firstIllegal_map {offsets : List Nat} {byte : Nat → Byte} {k : Nat} (rising : offsets.Pairwise (· < ·))
    (hk : k ∈ offsets) (illegal : ¬ ValidRegByte (byte k))
    (before : ∀ j ∈ offsets, j < k → ValidRegByte (byte j)) : firstIllegal (offsets.map byte) = some (byte k) := by
  induction offsets with
  | nil => cases hk
  | cons j rest ih =>
    obtain ⟨below, rising⟩ := List.pairwise_cons.1 rising
    rw [List.map_cons]
    rcases List.mem_cons.1 hk with rfl | hk
    · exact firstIllegal_cons_of_not_valid illegal
    · rw [firstIllegal_cons_of_valid (before j (by simp) (below k hk))]
      exact ih rising hk fun l hl => before l (List.mem_cons_of_mem j hl)

/-- A parse that resolves these register bytes, in this order, and can fail in no other way. -/
def Resolves (regs : List Byte) (r : Except DecodeError β) : Prop :=
  match firstIllegal regs with
  | none => ∃ b, r = .ok b
  | some a => r = .error (.illegalRegister a)

theorem Resolves.ok (b : β) : Resolves [] (.ok b : Except DecodeError β) := ⟨b, rfl⟩

/-- A register is resolved before anything after it is fetched (30_encoding.md R65). -/
theorem Resolves.fetchReg_bind {k : Reg × σ → Except DecodeError β}
    (hk : ∀ x, Resolves regs (k (x, (next src).2))) : Resolves ((next src).1 :: regs) (fetchReg next src >>= k) := by
  by_cases valid : ValidRegByte (next src).1
  · obtain ⟨x, hx⟩ := resolveReg_of_valid valid
    have fetched : fetchReg next src = .ok (x, (next src).2) := by simp [fetchReg, hx]
    rw [Resolves, firstIllegal_cons_of_valid valid, fetched]
    exact hk x
  · have failed : fetchReg next src = .error (.illegalRegister (next src).1) := by
      simp [fetchReg, resolveReg_of_not_valid valid]
    rw [Resolves, firstIllegal_cons_of_not_valid valid, failed]
    rfl

/-- The operands of a form resolve the register bytes at the places of its format, counted from the opcode byte
(30_encoding.md R68). -/
theorem parseOperands_resolves (f : Form) :
    Resolves (f.format.regOffsets.map (byteAt next src)) (parseOperands next f (next src).2) := by
  cases f with
  | nop | ret | halt | pushI | haltI | jmpA | jzA | jnzA | juA | jnuA | joA | jnoA | callA | storeAI => exact .ok _
  | notR | pushR | popR | incR | decR | sqrtR | fsqrtR | haltR
  | movRI | andRI | cmpRI | addRI | subRI | mulRI | divRI | modRI | pwrRI | movRA | storeAR =>
    exact .fetchReg_bind fun _ => .ok _
  | movRR | andRR | cmpRR | addRR | subRR | mulRR | divRR | modRR | pwrRR
  | jmpP | jzP | jnzP | juP | jnuP | joP | jnoP | callP | storePI =>
    exact .fetchReg_bind fun _ => .fetchReg_bind fun _ => .ok _
  | movRP | storePR => exact .fetchReg_bind fun _ => .fetchReg_bind fun _ => .fetchReg_bind fun _ => .ok _

theorem parse_of_formOf {m : OpcodeMap} {f : Form} (h : m.formOf (next src).1 = some f) :
    parse next m src = parseOperands next f (next src).2 := by
  rw [parse, h]

theorem Resolves.eq_ok {r : Except DecodeError β} (h : Resolves regs r) (legal : firstIllegal regs = none) :
    ∃ b, r = .ok b := by
  rwa [Resolves, legal] at h

theorem Resolves.eq_error {r : Except DecodeError β} (h : Resolves regs r) (illegal : firstIllegal regs = some a) :
    r = .error (.illegalRegister a) := by
  rwa [Resolves, illegal] at h

theorem Format.regOffsets_lt_four (f : Format) : ∀ k ∈ f.regOffsets, k < 4 := by cases f <;> decide

theorem Format.regOffsets_rising (f : Format) : f.regOffsets.Pairwise (· < ·) := by cases f <;> decide

end Illegal

/-- Settles O1: the encoding is what the window starts with, and its opcode byte identifies its form. -/
theorem decodeOfEncodeIsTheInstruction : Obligations.DecodeOfEncodeIsTheInstruction := by
  intro m i tail wellFormed
  have start : (Window.ofBytes (encode m i ++ tail)).toBytes.take i.length = encode m i := by
    have enough : i.length ≤ (encode m i ++ tail).length := by
      rw [List.length_append, encode_length]
      exact Nat.le_add_right _ _
    rw [Window.toBytes_ofBytes_take _ i.length_le_four enough, ← encode_length m i, List.take_left]
  exact decode_eq_ok.2 ⟨OpcodeMap.formOf_opcode_of_unique wellFormed, start⟩

/-- Settles O2: a decode succeeds on the encoding of its result alone. -/
theorem encodeOfDecodeIsTheBytes : Obligations.EncodeOfDecodeIsTheBytes :=
  fun _ _ _ h => (decode_eq_ok.1 h).2

/-- Settles O3: a legal map gives no two forms one byte, so each byte it gives identifies its form. -/
theorem legalMapIdentifiesEveryInstruction : Obligations.LegalMapIdentifiesEveryInstruction := by
  intro m ⟨distinct, _⟩ i
  have wellFormed : i.WellFormed m := fun _ _ same => OpcodeMap.opcode_injective distinct same
  exact ⟨wellFormed, OpcodeMap.formOf_opcode_of_unique wellFormed⟩

/-- Settles O7: with every register byte legal the operands parse, to an instruction of the form looked up. -/
theorem validRegisterBytesDecode : Obligations.ValidRegisterBytesDecode := by
  intro m w f hf valid
  have legal : ∀ a ∈ f.format.regOffsets.map (byteAt Window.next w), ValidRegByte a := by
    intro a ha
    obtain ⟨k, hk, rfl⟩ := List.mem_map.1 ha
    rw [← getD_nextBytes (f.format.regOffsets_lt_four k hk)]
    exact valid k hk
  obtain ⟨⟨i, w'⟩, parsed⟩ := (parseOperands_resolves f).eq_ok (firstIllegal_eq_none legal)
  refine ⟨i, (parseOperands_eq_ok.1 parsed).1, ?_⟩
  rw [decode, parse_of_formOf hf, parsed]
  rfl

/-- Settles O8: each word is four given bytes, decoded. -/
theorem specWordsDecodeUnderTheDefaultMap : Obligations.SpecWordsDecodeUnderTheDefaultMap := by
  unfold Obligations.SpecWordsDecodeUnderTheDefaultMap
  decide

end Sys2Proof

/-! The tick (30_encoding.md R72): the machine is a source of bytes, and the four of its window are the next ones. -/

namespace Sys2Proof.Machine

section Tick
variable {s t : State} {i : Instr}

theorem skipBytes_fetchByte (s : State) (n : Nat) :
    skipBytes fetchByte n s = s.setPc (s.pc + BitVec.ofNat 16 n) := by
  induction n generalizing s with
  | zero => rw [BitVec.add_zero]; rfl
  | succ n ih =>
    have advance : s.pc + 1 + BitVec.ofNat 16 n = s.pc + BitVec.ofNat 16 (n + 1) := by
      rw [BitVec.add_assoc, BitVec.add_comm 1, BitVec.ofNat_add]
      rfl
    rw [← advance]
    exact ih (s.setPc (s.pc + 1))

theorem byteAt_fetchByte (s : State) (k : Nat) : byteAt fetchByte s k = s.memRead (s.pc + BitVec.ofNat 16 k) := by
  rw [byteAt, skipBytes_fetchByte]
  rfl

theorem nextBytes_fetchByte (s : State) : nextBytes fetchByte 4 s = (windowAt s).toBytes := by
  simp [nextBytes, windowAt, Window.toBytes, BitVec.add_assoc]

/-- The machine fetches what its window decodes to, and moves pc past its bytes (30_encoding.md R72). -/
theorem fetchInstr_of_decode (h : decode s.params.opcodeMap (windowAt s) = .ok i) :
    fetchInstr s = .ok (i, s.setPc (s.pc + BitVec.ofNat 16 i.length)) := by
  obtain ⟨identified, bytes⟩ := decode_eq_ok.1 h
  rw [← nextBytes_fetchByte] at bytes
  exact parse_eq_ok.2 ⟨identified, reads_encode_iff_take.2 ⟨bytes, skipBytes_fetchByte s i.length⟩⟩

theorem step_of_decode (running : ¬ Halted s) (h : decode s.params.opcodeMap (windowAt s) = .ok i) :
    step s = exec i ((s.setPc (s.pc + BitVec.ofNat 16 i.length)).setReply .cont) := by
  have hstep := step_of_running s fun code hcode => running ⟨code, hcode⟩
  rw [fetchInstr_of_decode h] at hstep
  exact hstep

theorem step_of_decode_error {e : DecodeError} (running : ¬ Halted s) (h : fetchInstr s = .error e) :
    step s = .fault (faultOfDecode e) := by
  have hstep := step_of_running s fun code hcode => running ⟨code, hcode⟩
  rw [h] at hstep
  exact hstep

end Tick

/-- Settles O4: the four bytes from pc on are the next four of the fetch. -/
theorem stepRunsTheDecodedInstruction : Obligations.StepRunsTheDecodedInstruction :=
  fun _ _ running h => step_of_decode running h

/-- Settles O6: the operands resolve their register bytes in fetch order, so the first illegal one ends the fetch. -/
theorem firstIllegalRegisterEndsTheRun : Obligations.FirstIllegalRegisterEndsTheRun := by
  intro s f k running hf hk illegal before
  have first := firstIllegal_map (byte := byteAt fetchByte s) f.format.regOffsets_rising hk
    (by rwa [byteAt_fetchByte]) fun j hj hjk => by
      rw [byteAt_fetchByte]
      exact before j hj hjk
  have failed : fetchInstr s = .error (.illegalRegister (byteAt fetchByte s k)) := by
    rw [fetchInstr, parse_of_formOf hf]
    exact (parseOperands_resolves f).eq_error first
  rw [byteAt_fetchByte] at failed
  rw [step_of_decode_error running failed]
  exact ⟨rfl, rfl⟩

/-! The reply of an instruction: only HALT writes it (30_encoding.md R73). -/

section Reply
variable {s t : State} {i : Instr}

theorem EffectOf.reply_eq (h : EffectOf i s t) (hi : ¬ IsHalt i) : t.reply = s.reply := by
  cases h with
  | halt _ isHalt => exact absurd isHalt hi
  | nothing | flags | store | jump | push | call | ret => rfl
  | register | registerAndFlags | pop => exact State.writeReg_reply _ _ _

theorem exec_halted_of_isHalt (hi : IsHalt i) (h : exec i s = .next t) : Halted t := by
  cases i with
  | haltR | haltI | halt =>
    obtain rfl := haltWith_next.1 h
    exact ⟨_, rfl⟩
  | _ => exact absurd hi (of_decide_eq_false rfl)

end Reply

/-- Settles O49: the step runs the decoded instruction with the reply Continue, which HALT alone replaces. -/
theorem onlyHaltRepliesHalt : Obligations.OnlyHaltRepliesHalt := by
  intro s t i running decoded h
  rw [step_of_decode running decoded] at h
  have kept (hi : ¬ IsHalt i) : t.reply = .cont := (exec_effectOf h).reply_eq hi
  refine ⟨⟨fun ⟨code, hcode⟩ => ?_, fun hi => exec_halted_of_isHalt hi h⟩, kept, ?_, ?_, ?_⟩
  · by_contra hi
    rw [kept hi] at hcode
    cases hcode
  · rintro rfl
    rw [haltWith_next.1 h]
    rfl
  · rintro n rfl
    rw [haltWith_next.1 h]
    rfl
  · rintro x rfl
    rw [haltWith_next.1 h, State.setReply_reply, regOperand, State.setReply_readReg, State.setPc_readReg]

/-! The faults of an instruction (45_arithmetic.md R106, 46_power_root.md R119). -/

section Faults
variable {i : Instr} {s : State} {c : Fault}

theorem exec_fault (h : exec i s = .fault c) : ZeroOperand i s c := by
  cases i with
  | divRI x =>
    obtain ⟨rfl, rfl⟩ := divide_fault.1 h
    exact .inl ⟨rfl, .inl ⟨x, rfl⟩⟩
  | divRR x y =>
    obtain ⟨zero, rfl⟩ := divide_fault.1 h
    exact .inl ⟨rfl, .inr ⟨x, y, rfl, zero⟩⟩
  | modRI x =>
    obtain ⟨rfl, rfl⟩ := modulo_fault.1 h
    exact .inr (.inl ⟨rfl, .inl ⟨x, rfl⟩⟩)
  | modRR x y =>
    obtain ⟨zero, rfl⟩ := modulo_fault.1 h
    exact .inr (.inl ⟨rfl, .inr ⟨x, y, rfl, zero⟩⟩)
  | pwrRI x n =>
    obtain ⟨zero, rfl⟩ := power_fault.1 h
    exact .inr (.inr ⟨rfl, .inl ⟨x, n, rfl, zero⟩⟩)
  | pwrRR x y =>
    obtain ⟨zero, rfl⟩ := power_fault.1 h
    exact .inr (.inr ⟨rfl, .inr ⟨x, y, rfl, zero⟩⟩)
  | _ => cases h

theorem exec_of_zeroOperand (h : ZeroOperand i s c) : exec i s = .fault c := by
  obtain ⟨rfl, ⟨x, rfl⟩ | ⟨x, y, rfl, zero⟩⟩ | ⟨rfl, ⟨x, rfl⟩ | ⟨x, y, rfl, zero⟩⟩ |
    ⟨rfl, ⟨x, n, rfl, zero⟩ | ⟨x, y, rfl, zero⟩⟩ := h
  · exact (exec_divRI s x 0).trans (divide_fault.2 ⟨rfl, rfl⟩)
  · exact (exec_divRR s x y).trans (divide_fault.2 ⟨zero, rfl⟩)
  · exact (exec_modRI s x 0).trans (modulo_fault.2 ⟨rfl, rfl⟩)
  · exact (exec_modRR s x y).trans (modulo_fault.2 ⟨zero, rfl⟩)
  · exact (exec_pwrRI s x n).trans (power_fault.2 ⟨zero, rfl⟩)
  · exact (exec_pwrRR s x y).trans (power_fault.2 ⟨zero, rfl⟩)

end Faults

/-- Settles O51: DIV, MOD and PWR fault on their zero operands and no instruction faults otherwise; none is refused, so
what does not fault completes. -/
theorem execFaultsOnlyOnZeroOperands : Obligations.ExecFaultsOnlyOnZeroOperands := by
  refine ⟨fun i s c => ⟨exec_fault, exec_of_zeroOperand⟩, fun i s => ?_⟩
  cases h : exec i s with
  | next t => exact .inr ⟨t, rfl⟩
  | fault c => exact .inl ⟨c, exec_fault h⟩
  | refused r => exact absurd h (exec_ne_refused i s r)

end Sys2Proof.Machine

/-! Moves (40_control_move.md): each form of MOV is one register write, whose frame is that of every register write. -/

namespace Sys2Proof.Machine

section Move
variable {s : State} {i : Instr} {x y z : Reg} {v : Byte} {a : Addr}

/-- The address a register pair names is the only one with the pair's number (20_memory.md R43). -/
theorem eq_pairAddress (h : a.toNat = (s.readReg y).toNat * 256 + (s.readReg z).toNat) : a = pairAddress s y z :=
  BitVec.eq_of_toNat_eq (h.trans (pairAddress_toNat s y z).symm)

/-- An instruction that ends in one register write completes with that register's frame. -/
theorem exists_onlyRegister_of_exec (h : exec i s = .next (s.writeReg x v)) :
    ∃ t, exec i s = .next t ∧ OnlyRegister s t x v :=
  ⟨_, h, s.writeReg_onlyRegister x v⟩

end Move

/-- Settles O22: NOP's next state is the state it runs in. -/
theorem nopChangesNothing : Obligations.NopChangesNothing := exec_nop

/-- Settles O23: each form writes its source byte to its destination register, and the pair's number fixes the address
the pair form reads. -/
theorem movWritesItsSourceToItsDestination : Obligations.MovWritesItsSourceToItsDestination := by
  intro s x y z n nn a
  refine ⟨?registers, ?immediate, ?address, ?pair⟩
  case registers => exact exists_onlyRegister_of_exec (exec_movRR s x y)
  case immediate => exact exists_onlyRegister_of_exec (exec_movRI s x n)
  case address => exact exists_onlyRegister_of_exec (exec_movRA s x nn)
  case pair =>
    intro ha
    obtain rfl := eq_pairAddress ha
    exact exists_onlyRegister_of_exec (exec_movRP s x y z)

end Sys2Proof.Machine

/-! Bitwise instructions (41_bitwise.md): NOT and AND are one register write each, of a byte the spec gives by a property
(its number for NOT, its bits for AND). -/

namespace Sys2Proof.Machine

/-- An instruction that ends in the write of a byte with property `P` completes with that register's frame. -/
theorem exists_onlyRegister_of_exec_of_value {s : State} {i : Instr} {x : Reg} {v : Byte} {P : Byte → Prop}
    (h : exec i s = .next (s.writeReg x v)) (hv : P v) :
    ∃ t w, exec i s = .next t ∧ OnlyRegister s t x w ∧ P w := by
  obtain ⟨t, ht, frame⟩ := exists_onlyRegister_of_exec h
  exact ⟨t, v, ht, frame, hv⟩

/-- Settles O24: each form writes its destination register once; inverting every bit of a byte is subtracting it from
255, and AND works bit by bit. -/
theorem bitwiseWritesOnlyItsDestination : Obligations.BitwiseWritesOnlyItsDestination := by
  intro s x y n
  refine ⟨?complement, ?andRegister, ?andImmediate⟩
  case complement => exact exists_onlyRegister_of_exec_of_value (exec_notR s x) BitVec.toNat_not
  case andRegister =>
    exact exists_onlyRegister_of_exec_of_value (exec_andRR s x y) fun _ => BitVec.getLsbD_and
  case andImmediate =>
    exact exists_onlyRegister_of_exec_of_value (exec_andRI s x n) fun _ => BitVec.getLsbD_and

end Sys2Proof.Machine

/-! Jumps (42_jump.md): every form is the one shared jump, on a condition and a target of its own. What the shared jump
does is proved once; a form then names its condition. -/

namespace Sys2Proof.Machine

section Jump
variable {s : State} {i : Instr} {c : Cond} {target : Addr}

/-- Setting pc changes pc alone (10_state.md R21). -/
theorem State.setPc_onlyPc (s : State) (a : Addr) : OnlyPc s (s.setPc a) a :=
  ⟨s.setPc_pc a, fun _ => rfl, s.setPc_flags a, s.setPc_memRead a, s.setPc_sp a, s.setPc_params a, s.setPc_reply a⟩

/-- A jump not taken changes nothing, pc included: it keeps the fall-through address (42_jump.md R86). -/
theorem State.onlyPc_self (s : State) : OnlyPc s s s.pc := ⟨rfl, fun _ => rfl, rfl, fun _ => rfl, rfl, rfl, rfl⟩

/-- An instruction that is a jump completes, and moves pc alone: to the target where its condition holds, and nowhere
otherwise (42_jump.md R86). -/
theorem exists_onlyPc_of_exec (h : exec i s = jumpIf c target s) :
    ∃ t, exec i s = .next t ∧ OnlyPc s t (if condHolds c s.flags then target else s.pc) := by
  refine ⟨_, h.trans (jumpIf_next.2 rfl), ?_⟩
  split
  case isTrue => exact s.setPc_onlyPc target
  case isFalse => exact s.onlyPc_self

/-- The unconditional jump always moves pc to its target (42_jump.md R86). -/
theorem exists_onlyPc_of_exec_always (h : exec i s = jumpIf .always target s) :
    ∃ t, exec i s = .next t ∧ OnlyPc s t target := exists_onlyPc_of_exec h

end Jump

/-- Settles O25: each form is the shared jump to nn, on its own condition. -/
theorem jumpToAddressMovesOnlyPc : Obligations.JumpToAddressMovesOnlyPc := by
  intro s nn
  refine ⟨?always, ?zero, ?notZero, ?underflow, ?notUnderflow, ?overflow, ?notOverflow⟩
  case always => exact exists_onlyPc_of_exec_always (exec_jmpA s nn)
  case zero => exact exists_onlyPc_of_exec (exec_jzA s nn)
  case notZero => exact exists_onlyPc_of_exec (exec_jnzA s nn)
  case underflow => exact exists_onlyPc_of_exec (exec_juA s nn)
  case notUnderflow => exact exists_onlyPc_of_exec (exec_jnuA s nn)
  case overflow => exact exists_onlyPc_of_exec (exec_joA s nn)
  case notOverflow => exact exists_onlyPc_of_exec (exec_jnoA s nn)

/-- Settles O26: the pair's number fixes the target, and each form is the shared jump to it, on its own condition. -/
theorem jumpToRegisterPairMovesOnlyPc : Obligations.JumpToRegisterPairMovesOnlyPc := by
  intro s x y a ha
  obtain rfl := eq_pairAddress ha
  refine ⟨?always, ?zero, ?notZero, ?underflow, ?notUnderflow, ?overflow, ?notOverflow⟩
  case always => exact exists_onlyPc_of_exec_always (exec_jmpP s x y)
  case zero => exact exists_onlyPc_of_exec (exec_jzP s x y)
  case notZero => exact exists_onlyPc_of_exec (exec_jnzP s x y)
  case underflow => exact exists_onlyPc_of_exec (exec_juP s x y)
  case notUnderflow => exact exists_onlyPc_of_exec (exec_jnuP s x y)
  case overflow => exact exists_onlyPc_of_exec (exec_joP s x y)
  case notOverflow => exact exists_onlyPc_of_exec (exec_jnoP s x y)

end Sys2Proof.Machine

/-! Compare (43_compare.md): both forms are the one shared comparison, which writes the flags of the wide sum and stores
nothing. -/

namespace Sys2Proof.Machine

section Compare
variable {s t : State} {i : Instr} {a b : Byte} {wide : Nat}

/-- On a wide value that is not negative UpdateFlags never sets underflow, and its two other conditions are those of
the number (10_state.md R24). -/
theorem flagsOf_of_flags_eq (h : t.flags = updateFlags wide) : FlagsOf t wide := by
  have overflow : t.flags.overflow = true ↔ 255 < wide := by
    rw [h, updateFlags_overflow]
    omega
  have zero : t.flags.zero = true ↔ wide = 0 := by
    rw [h, updateFlags_zero]
    omega
  have notUnderflow : ¬ t.flags.underflow = true := by
    rw [h, updateFlags_underflow]
    omega
  exact ⟨overflow, zero, Bool.eq_false_iff.2 notUnderflow⟩

/-- Writing the flags leaves registers, memory, pc, sp and the model's own fields as they were (10_state.md R26). -/
theorem State.setFlags_frame (s : State) (f : Flags) :
    SameRegs s (s.setFlags f) ∧ SameMemory s (s.setFlags f) ∧ (s.setFlags f).pc = s.pc ∧
      (s.setFlags f).sp = s.sp ∧ SameOwn s (s.setFlags f) :=
  ⟨fun _ => rfl, s.setFlags_memRead f, s.setFlags_pc f, s.setFlags_sp f, s.setFlags_params f, s.setFlags_reply f⟩

/-- An instruction that is a comparison completes, and writes the flags of the wide sum alone (43_compare.md R101). -/
theorem exists_flagsOf_sum_of_exec (h : exec i s = compareBytes a b s) :
    ∃ t, exec i s = .next t ∧ FlagsOf t (a.toNat + b.toNat) ∧
      SameRegs s t ∧ SameMemory s t ∧ t.pc = s.pc ∧ t.sp = s.sp ∧ SameOwn s t :=
  ⟨_, h.trans (compareBytes_next.2 rfl), flagsOf_of_flags_eq (s.setFlags_flags _), s.setFlags_frame _⟩

end Compare

/-- Settles O27: each form is the shared comparison of its two operands. -/
theorem cmpWritesOnlyTheFlagsOfTheSum : Obligations.CmpWritesOnlyTheFlagsOfTheSum := by
  intro s x y n
  refine ⟨?immediate, ?registers⟩
  case immediate => exact exists_flagsOf_sum_of_exec (exec_cmpRI s x n)
  case registers => exact exists_flagsOf_sum_of_exec (exec_cmpRR s x y)

end Sys2Proof.Machine

/-! PUSH and POP (44_stack.md): both forms of PUSH are the one byte push, and POP is the byte pop and a register write. -/

namespace Sys2Proof.Machine

section PushPop
variable {s : State} {i : Instr} {v : Byte}

theorem push8_memRead_same (s : State) (v : Byte) : (push8 s v).memRead s.stackSlot = v := by
  rw [push8_memRead, if_pos rfl]

theorem push8_memRead_other (s : State) (v : Byte) {a : Addr} (h : a ≠ s.stackSlot) :
    (push8 s v).memRead a = s.memRead a := by
  rw [push8_memRead, if_neg h]

/-- A byte push writes the slot of the old sp and increments sp modulo 256, and changes nothing else
(20_memory.md R45, R50). -/
theorem push8_pushed (s : State) (v : Byte) : Pushed s (push8 s v) v :=
  ⟨⟨push8_memRead_same s v, fun _ => push8_memRead_other s v⟩, BitVec.toNat_add s.sp 1, fun _ => rfl,
    push8_flags s v, push8_pc s v, push8_params s v, push8_reply s v⟩

/-- A pop right after a push names the slot of the push again, also where sp wraps (20_memory.md R46, R50). -/
theorem pop8_push8 (s : State) (v : Byte) : pop8 (push8 s v) = (v, (push8 s v).setSp s.sp) := by
  have back : s.sp + 1 - 1 = s.sp := BitVec.add_sub_cancel _ _
  have found : (push8 s v).memRead (stackAddr s.params s.sp) = v := push8_memRead_same s v
  rw [pop8_eq, push8_sp, push8_params, back, found]

/-- An instruction that is a byte push completes, with the push's frame. -/
theorem exists_pushed_of_exec (h : exec i s = .next (push8 s v)) : ∃ t, exec i s = .next t ∧ Pushed s t v :=
  ⟨_, h, push8_pushed s v⟩

/-- POP after an instruction that is a byte push writes the pushed byte and restores sp (44_stack.md R105). -/
theorem exists_popped_of_exec (h : exec i s = .next (push8 s v)) (x : Reg) :
    ∃ t u, exec i s = .next t ∧ exec (.popR x) t = .next u ∧ WroteReg s u x v ∧ u.sp = s.sp := by
  have popped : exec (.popR x) (push8 s v) = .next (((push8 s v).setSp s.sp).writeReg x v) := by
    rw [exec_popR, pop8_push8]
  exact ⟨_, _, h, popped, State.writeReg_regs _ x v, State.writeReg_sp _ x v⟩

end PushPop

/-- Settles O28: each form is a byte push of its operand, and the sink's byte is 0. -/
theorem pushStoresAtTheSlotAndAdvancesSp : Obligations.PushStoresAtTheSlotAndAdvancesSp := by
  intro s x n
  refine ⟨?register, ?immediate⟩
  case register => exact exists_pushed_of_exec (exec_pushR s x)
  case immediate => exact exists_pushed_of_exec (exec_pushI s n)

/-- Settles O30: a pop gives back the byte of a push, and each form of PUSH is one. -/
theorem pushThenPopReturnsTheByte : Obligations.PushThenPopReturnsTheByte := by
  intro s x y n
  refine ⟨?immediate, ?register⟩
  case immediate => exact exists_popped_of_exec (exec_pushI s n) x
  case register => exact exists_popped_of_exec (exec_pushR s y) x

/-- Settles O29: POP writes the byte of the slot below to its register in the state whose sp it has moved. On a byte,
subtracting 1 is adding 255 modulo 256. -/
theorem popReadsTheSlotBelowAndDecrementsSp : Obligations.PopReadsTheSlotBelowAndDecrementsSp := by
  intro s x
  obtain ⟨register, flags, memory, pc, sp, own⟩ :=
    (s.setSp (s.sp - 1)).writeReg_onlyRegister x (s.memRead (stackAddr s.params (s.sp - 1)))
  have decremented : (s.sp - 1).toNat = (s.sp.toNat + 255) % 256 := by bv_omega
  exact ⟨_, exec_popR s x, register, (congrArg BitVec.toNat sp).trans decremented, flags, memory, pc, own⟩

end Sys2Proof.Machine

/-! Arithmetic (45_arithmetic.md): every form ends in the shared store of a wide result, which writes its flags and its
low byte. What that store does is proved once; a form then names its wide result, INC's being a + 1 and DEC's a - 1. -/

namespace Sys2Proof.Machine

section WideStore
variable {s t : State} {i : Instr} {x : Reg} {wide : Nat}

theorem trunc8_natCast_toNat (wide : Nat) : (trunc8 wide).toNat = wide % 256 := by
  rw [trunc8, BitVec.ofInt_natCast, BitVec.toNat_ofNat]

/-- Writing the flags and a register changes nothing else (10_state.md R17, R26). -/
theorem State.setFlags_writeReg_onlyRegisterAndFlags (s : State) (f : Flags) (x : Reg) (v : Byte) :
    OnlyRegisterAndFlags s ((s.setFlags f).writeReg x v) x v := by
  obtain ⟨register, -, rest⟩ := (s.setFlags f).writeReg_onlyRegister x v
  exact ⟨register, rest⟩

theorem flags_eq_of_storeWide {wide : Int} (h : storeWide x wide s = .next t) : t.flags = updateFlags wide := by
  obtain rfl := storeWide_next.1 h
  exact State.writeReg_flags _ x _

/-- Every store of a wide result completes: the flags of the result, its low byte in the register, nothing else. -/
theorem exists_onlyRegisterAndFlags_of_exec {wide : Int} (h : exec i s = storeWide x wide s) :
    ∃ t, exec i s = .next t ∧ OnlyRegisterAndFlags s t x (trunc8 wide) ∧ t.flags = updateFlags wide :=
  ⟨_, h, s.setFlags_writeReg_onlyRegisterAndFlags _ x _, flags_eq_of_storeWide rfl⟩

/-- An instruction that stores a wide result that is not negative completes with that result (45_arithmetic.md R106). -/
theorem exists_arithmeticResult_of_exec (h : exec i s = storeWide x wide s) :
    ∃ t, exec i s = .next t ∧ ArithmeticResult s t x wide := by
  obtain ⟨t, ht, frame, flags⟩ := exists_onlyRegisterAndFlags_of_exec h
  exact ⟨t, ht, trunc8 wide, trunc8_natCast_toNat wide, frame, flagsOf_of_flags_eq flags⟩

end WideStore

/-- Settles O31: each form stores the wide sum of its operands, SUB's forms too (45_arithmetic.md R109). -/
theorem addAndSubStoreTheSum : Obligations.AddAndSubStoreTheSum := by
  intro s x y n
  refine ⟨?addImmediate, ?addRegister, ?subImmediate, ?subRegister⟩
  case addImmediate => exact exists_arithmeticResult_of_exec (exec_addRI s x n)
  case addRegister => exact exists_arithmeticResult_of_exec (exec_addRR s x y)
  case subImmediate => exact exists_arithmeticResult_of_exec (exec_subRI s x n)
  case subRegister => exact exists_arithmeticResult_of_exec (exec_subRR s x y)

/-- Settles O32: each form stores the wide product of its operands. -/
theorem mulStoresTheProduct : Obligations.MulStoresTheProduct := by
  intro s x y n
  refine ⟨?immediate, ?register⟩
  case immediate => exact exists_arithmeticResult_of_exec (exec_mulRI s x n)
  case register => exact exists_arithmeticResult_of_exec (exec_mulRR s x y)

/-! Division: the divisor decides whether the form stops or stores. -/

section Division
variable {s : State} {i : Instr} {x : Reg} {b : Byte}

theorem divide_of_ne_zero (hb : b ≠ 0) : divide x b s = storeWide x (roundedQuotient (s.readReg x) b) s :=
  if_neg hb

theorem modulo_of_ne_zero (hb : b ≠ 0) : modulo x b s = storeWide x (wideRemainder (s.readReg x) b) s :=
  if_neg hb

/-- The floor of (2a + b) / 2b is the integer nearest to a / b, ties up (45_arithmetic.md R113). -/
theorem nearest_bounds_of_eq_div {a b q : Nat} (hb : 0 < b) (hq : (2 * a + b) / (2 * b) = q) :
    2 * q * b ≤ 2 * a + b ∧ 2 * a + b < 2 * (q + 1) * b := by
  subst hq
  have below := Nat.div_mul_le_self (2 * a + b) (2 * b)
  have above := Nat.lt_mul_div_succ (2 * a + b) (Nat.mul_pos two_pos hb)
  constructor <;> linarith

/-- The rounded quotient of two bytes is a byte again. -/
theorem roundedQuotient_le_255 (a : Byte) (hb : b ≠ 0) : (2 * a.toNat + b.toNat) / (2 * b.toNat) ≤ 255 := by
  have positive := BitVec.toNat_pos_of_ne_zero hb
  have small : a.toNat < 256 := a.isLt
  refine Nat.le_of_lt_succ ((Nat.div_lt_iff_lt_mul (by omega)).2 ?_)
  omega

/-- DIV by a nonzero byte completes with the integer nearest to the quotient (45_arithmetic.md R113). -/
theorem exists_nearestQuotient_of_exec (h : exec i s = divide x b s) (hb : b ≠ 0) :
    ∃ t q, exec i s = .next t ∧ ArithmeticResult s t x q ∧ q ≤ 255 ∧
      2 * q * b.toNat ≤ 2 * (s.readReg x).toNat + b.toNat ∧
      2 * (s.readReg x).toNat + b.toNat < 2 * (q + 1) * b.toNat := by
  obtain ⟨t, ht, result⟩ := exists_arithmeticResult_of_exec (h.trans (divide_of_ne_zero hb))
  exact ⟨t, _, ht, result, roundedQuotient_le_255 _ hb, nearest_bounds_of_eq_div (BitVec.toNat_pos_of_ne_zero hb) rfl⟩

/-- MOD by a nonzero byte completes with the remainder (45_arithmetic.md R115). -/
theorem exists_remainder_of_exec (h : exec i s = modulo x b s) (hb : b ≠ 0) :
    ∃ t k r, exec i s = .next t ∧ ArithmeticResult s t x r ∧ r < b.toNat ∧
      (s.readReg x).toNat = k * b.toNat + r := by
  obtain ⟨t, ht, result⟩ := exists_arithmeticResult_of_exec (h.trans (modulo_of_ne_zero hb))
  exact ⟨t, (s.readReg x).toNat / b.toNat, _, ht, result, Nat.mod_lt _ (BitVec.toNat_pos_of_ne_zero hb),
    (Nat.div_add_mod' _ _).symm⟩

end Division

/-- Settles O33: each form is the shared division of its operands. -/
theorem divStoresTheNearestQuotient : Obligations.DivStoresTheNearestQuotient := by
  intro s x y n
  refine ⟨?immediate, ?register⟩
  case immediate => exact exists_nearestQuotient_of_exec (exec_divRI s x n)
  case register => exact exists_nearestQuotient_of_exec (exec_divRR s x y)

/-- Settles O34: each form is the shared remainder of its operands. -/
theorem modStoresTheRemainder : Obligations.ModStoresTheRemainder := by
  intro s x y n
  refine ⟨?immediate, ?register⟩
  case immediate => exact exists_remainder_of_exec (exec_modRI s x n)
  case register => exact exists_remainder_of_exec (exec_modRR s x y)

/-- Settles O35: a zero divisor is the fault of each form, and that condition has no exit status. -/
theorem divAndModByZeroEndTheRun : Obligations.DivAndModByZeroEndTheRun := by
  intro s x y
  refine ⟨?divImmediate, ?modImmediate, fun zero => ⟨?divRegister, ?modRegister⟩, fun _ => rfl⟩
  case divImmediate => exact (exec_divRI s x 0).trans (divide_fault.2 ⟨rfl, rfl⟩)
  case modImmediate => exact (exec_modRI s x 0).trans (modulo_fault.2 ⟨rfl, rfl⟩)
  case divRegister => exact (exec_divRR s x y).trans (divide_fault.2 ⟨zero, rfl⟩)
  case modRegister => exact (exec_modRR s x y).trans (modulo_fault.2 ⟨zero, rfl⟩)

/-! INC and DEC: the sentinel given to UpdateFlags is the unwrapped result, so both are stores of a wide result too. -/

section IncDec
variable (s : State) (x : Reg) (a : Byte)

/-- The sentinel 256 is 255 + 1 (45_arithmetic.md R117). -/
theorem incWide_eq : incWide a = ((a.toNat + 1 : Nat) : Int) := by
  unfold incWide
  split
  case isTrue h => rw [h]; rfl
  case isFalse h => bv_omega

/-- The sentinel -1 is 0 - 1 (45_arithmetic.md R118). -/
theorem decWide_eq : decWide a = (a.toNat : Int) - 1 := by
  unfold decWide
  split
  case isTrue h => rw [h]; rfl
  case isFalse h => bv_omega

theorem trunc8_succ : trunc8 ((a.toNat + 1 : Nat) : Int) = a + 1 := by
  apply BitVec.eq_of_toNat_eq
  rw [trunc8_natCast_toNat, BitVec.toNat_add]
  rfl

theorem trunc8_pred : trunc8 ((a.toNat : Int) - 1) = a - 1 := by
  apply BitVec.eq_of_toNat_eq
  rw [trunc8, BitVec.toNat_ofInt]
  bv_omega

theorem exec_incR_eq_storeWide : exec (.incR x) s = storeWide x (((s.readReg x).toNat + 1 : Nat) : Int) s := by
  rw [exec_incR, incWide_eq, storeWide, trunc8_succ]

theorem exec_decR_eq_storeWide : exec (.decR x) s = storeWide x (((s.readReg x).toNat : Int) - 1) s := by
  rw [exec_decR, decWide_eq, storeWide, trunc8_pred]

end IncDec

/-- Settles O36: INC stores the wide result a + 1, which exceeds 255 at 255 alone and is never 0. -/
theorem incWrapsAndSetsOverflow : Obligations.IncWrapsAndSetsOverflow := by
  intro s x
  obtain ⟨t, ht, v, value, frame, overflow, zero, underflow⟩ :=
    exists_arithmeticResult_of_exec (exec_incR_eq_storeWide s x)
  have small : (s.readReg x).toNat < 256 := (s.readReg x).isLt
  refine ⟨t, v, ht, frame, value, overflow.trans ?_, Bool.eq_false_iff.2 fun h => ?_, underflow⟩
  · omega
  · exact Nat.succ_ne_zero _ (zero.1 h)

/-- Settles O37: DEC stores the wide result a - 1, which is negative at 0 alone and never exceeds 255. -/
theorem decWrapsAndSetsUnderflow : Obligations.DecWrapsAndSetsUnderflow := by
  intro s x
  obtain ⟨t, ht, frame, flags⟩ := exists_onlyRegisterAndFlags_of_exec (exec_decR_eq_storeWide s x)
  have small : (s.readReg x).toNat < 256 := (s.readReg x).isLt
  refine ⟨t, _, ht, frame, ?value, ?underflow, ?zero, ?overflow⟩
  case value =>
    rw [trunc8_pred]
    bv_omega
  case underflow =>
    rw [flags, updateFlags_underflow]
    omega
  case zero =>
    rw [flags, updateFlags_zero]
    omega
  case overflow =>
    rw [flags, Bool.eq_false_iff, ne_eq, updateFlags_overflow]
    omega

/-! Underflow: among the flag writers only DEC can have a negative result (45_arithmetic.md R106, R118). -/

section Underflow
variable {s t : State} {i : Instr} {x : Reg}

theorem FlagsOf.underflow_eq {wide : Nat} (h : FlagsOf t wide) : t.flags.underflow = false := by
  obtain ⟨-, -, underflow⟩ := h
  exact underflow

theorem underflow_eq_false_of_storeWide {wide : Nat} (h : storeWide x wide s = .next t) :
    t.flags.underflow = false :=
  (flagsOf_of_flags_eq (flags_eq_of_storeWide h)).underflow_eq

theorem underflow_of_decR (h : exec (.decR x) s = .next t) : t.flags.underflow = true ↔ s.readReg x = 0 := by
  rw [exec_decR_eq_storeWide] at h
  rw [flags_eq_of_storeWide h, updateFlags_underflow]
  bv_omega

/-- Every flag writer but DEC clears underflow. -/
theorem underflow_eq_false_of_writesFlags (hi : WritesFlags i) (notDec : ∀ x, i ≠ .decR x)
    (h : exec i s = .next t) : t.flags.underflow = false := by
  cases i with
  | addRI | addRR | subRI | subRR | mulRI | mulRR => exact underflow_eq_false_of_storeWide h
  | divRI | divRR => exact underflow_eq_false_of_storeWide (divide_next.1 h).2
  | modRI | modRR => exact underflow_eq_false_of_storeWide (modulo_next.1 h).2
  | incR x => exact underflow_eq_false_of_storeWide ((exec_incR_eq_storeWide s x).symm.trans h)
  | decR x => exact absurd rfl (notDec x)
  | cmpRI | cmpRR =>
    obtain rfl := compareBytes_next.1 h
    exact (flagsOf_of_flags_eq rfl).underflow_eq
  | pwrRI | pwrRR =>
    obtain ⟨-, rfl⟩ := power_next.1 h
    rw [State.writeReg_flags]
    rfl
  | sqrtR | fsqrtR =>
    obtain rfl := storeRoot_next.1 h
    rw [State.writeReg_flags]
    rfl
  | _ => exact absurd hi (of_decide_eq_false rfl)

end Underflow

/-- Settles O59: an instruction that writes no flag carries underflow, and of those that do DEC alone can set it. -/
theorem onlyDecSetsUnderflow : Obligations.OnlyDecSetsUnderflow := by
  intro i s t h underflow
  by_cases hi : WritesFlags i
  · by_cases dec : ∃ x, i = .decR x
    · obtain ⟨x, rfl⟩ := dec
      exact .inl ⟨x, rfl, (underflow_of_decR h).1 underflow⟩
    · have cleared := underflow_eq_false_of_writesFlags hi (not_exists.1 dec) h
      rw [cleared] at underflow
      cases underflow
  · rw [(exec_effectOf h).flags_eq hi] at underflow
    exact .inr ⟨underflow, hi⟩

end Sys2Proof.Machine

/-! Power (46_power_root.md R119, R120): both forms are the one shared power, whose operands decide whether it stops, and
whose result decides which byte it stores. -/

namespace Sys2Proof.Machine

section Power
variable {s : State} {i : Instr} {x : Reg} {b e : Byte}

theorem pwrOverflow_iff : pwrOverflow b e = true ↔ 255 ≤ b.toNat ^ e.toNat := decide_eq_true_iff

theorem pwrByte_toNat_of_lt (h : b.toNat ^ e.toNat < 2 ^ 31) : (pwrByte b e).toNat = b.toNat ^ e.toNat % 256 := by
  rw [pwrByte, if_pos h, BitVec.toNat_ofNat]

theorem pwrByte_of_le (h : 2 ^ 31 ≤ b.toNat ^ e.toNat) : pwrByte b e = Config.pwrLarge b e :=
  if_neg (Nat.not_lt.2 h)

/-- PWR of nonzero operands completes: the byte of the power in the register, its overflow flag, and nothing else
(46_power_root.md R119). -/
theorem exists_power_of_exec (h : exec i s = power x e s) (base : s.readReg x ≠ 0) (exponent : e ≠ 0) :
    ∃ t v, exec i s = .next t ∧ OnlyRegisterAndFlags s t x v ∧
      (t.flags.overflow = true ↔ 255 ≤ (s.readReg x).toNat ^ e.toNat) ∧
      t.flags.zero = false ∧ t.flags.underflow = false ∧
      ((s.readReg x).toNat ^ e.toNat < 2 ^ 31 → v.toNat = (s.readReg x).toNat ^ e.toNat % 256) ∧
      (2 ^ 31 ≤ (s.readReg x).toNat ^ e.toNat → v = Config.pwrLarge (s.readReg x) e) := by
  refine ⟨_, _, h.trans (power_next.2 ⟨⟨base, exponent⟩, rfl⟩), s.setFlags_writeReg_onlyRegisterAndFlags _ x _, ?_⟩
  rw [State.writeReg_flags]
  exact ⟨pwrOverflow_iff, rfl, rfl, pwrByte_toNat_of_lt, pwrByte_of_le⟩

end Power

/-- Settles O38: each form is the shared power of its operands. -/
theorem pwrStoresTheLowByteOrPwrLarge : Obligations.PwrStoresTheLowByteOrPwrLarge := by
  intro s x y n base
  refine ⟨?immediate, ?register⟩
  case immediate => exact exists_power_of_exec (exec_pwrRI s x n) base
  case register => exact exists_power_of_exec (exec_pwrRR s x y) base

/-- Settles O39: a zero base or exponent is the fault of each form, and code 6 leaves the status 128 + 6. -/
theorem pwrOfAZeroOperandEndsTheRun : Obligations.PwrOfAZeroOperandEndsTheRun := by
  intro s x y n
  refine ⟨fun zero => ?immediate, fun zero => ?register, rfl⟩
  case immediate => exact (exec_pwrRI s x n).trans (power_fault.2 ⟨zero, rfl⟩)
  case register => exact (exec_pwrRR s x y).trans (power_fault.2 ⟨zero, rfl⟩)

/-! The overflow test over the reals: e * ln(b) is ln(b^e), and 5.54 separates ln(254) from ln(255). A bound of a
logarithm by a fraction p / q compares a q-th power with the p-th power of Euler's number: 72 / 13 stands between ln(254)
and 5.54, and 205 / 37 between 5.54 and ln(255). -/

section Logarithm

theorem mul_log_lt_iff {c : ℝ} (hc : 0 < c) (q p : ℕ) : q * Real.log c < p ↔ c ^ q < Real.exp 1 ^ p := by
  rw [← Real.log_pow, Real.log_lt_iff_lt_exp (pow_pos hc q), Real.exp_one_pow]

theorem lt_mul_log_iff {c : ℝ} (hc : 0 < c) (q p : ℕ) : p < q * Real.log c ↔ Real.exp 1 ^ p < c ^ q := by
  rw [← Real.log_pow, Real.lt_log_iff_exp_lt (pow_pos hc q), Real.exp_one_pow]

theorem log_254_lt : Real.log 254 < 5.54 := by
  have powers : (254 : ℝ) ^ 13 < Real.exp 1 ^ 72 := by
    calc (254 : ℝ) ^ 13 < 2.7182818283 ^ 72 := by norm_num
      _ ≤ Real.exp 1 ^ 72 := by gcongr; exact Real.exp_one_gt_d9.le
  have fraction := (mul_log_lt_iff (by norm_num) 13 72).2 powers
  push_cast at fraction
  linarith

theorem lt_log_255 : 5.54 < Real.log 255 := by
  have powers : Real.exp 1 ^ 205 < (255 : ℝ) ^ 37 := by
    calc Real.exp 1 ^ 205 ≤ 2.7182818286 ^ 205 := by gcongr; exact Real.exp_one_lt_d9.le
      _ < (255 : ℝ) ^ 37 := by norm_num
  have fraction := (lt_mul_log_iff (by norm_num) 37 205).2 powers
  push_cast at fraction
  linarith

/-- On positive integers the logarithm exceeds 5.54 from 255 on (93_implementation_defined.md K6). -/
theorem lt_log_natCast_iff {p : ℕ} (hp : 0 < p) : 5.54 < Real.log p ↔ 255 ≤ p := by
  constructor
  · intro h
    by_contra! small
    have : Real.log p ≤ Real.log 254 :=
      Real.log_le_log (by exact_mod_cast hp) (by exact_mod_cast Nat.le_of_lt_succ small)
    linarith [log_254_lt]
  · intro large
    calc 5.54 < Real.log 255 := lt_log_255
      _ ≤ Real.log p := Real.log_le_log (by norm_num) (by exact_mod_cast large)

end Logarithm

/-- Settles O40: the source's product is the logarithm of the power, which the model compares with 255. -/
theorem pwrOverflowIsTheLogarithmTest : Obligations.PwrOverflowIsTheLogarithmTest := by
  intro b e base _
  have positive : 0 < b.toNat ^ e.toNat := Nat.pow_pos (BitVec.toNat_pos_of_ne_zero base)
  rw [pwrOverflow_iff, ← Real.log_pow, ← Nat.cast_pow, lt_log_natCast_iff positive]

end Sys2Proof.Machine

/-! Roots (46_power_root.md R121, R122): both end in the shared store of a root, which writes its zero flag and its byte.
What that store does is proved once. -/

namespace Sys2Proof.Machine

section RootStore
variable {s : State} {i : Instr} {x : Reg} {isZero : Bool} {v : Byte}

/-- An instruction that stores a root completes: the byte in the register, the zero flag, the two other flags cleared,
and nothing else. -/
theorem exists_root_of_exec (h : exec i s = storeRoot x isZero v s) :
    ∃ t, exec i s = .next t ∧ OnlyRegisterAndFlags s t x v ∧ t.flags = rootFlags isZero :=
  ⟨_, h, s.setFlags_writeReg_onlyRegisterAndFlags _ x v, State.writeReg_flags _ x v⟩

end RootStore

/-- Settles O41: SQRT stores its byte as a root, and gives the test of that byte as its zero flag. -/
theorem sqrtWritesOneByteAndItsZeroFlag : Obligations.SqrtWritesOneByteAndItsZeroFlag := by
  intro s x
  obtain ⟨t, ht, frame, flags⟩ := exists_root_of_exec (exec_sqrtR s x)
  refine ⟨t, ht, frame, ?_⟩
  rw [flags]
  exact ⟨beq_iff_eq, rfl, rfl⟩

/-! FSQRT: the rounded root counts the half-integers below the root, so a half-integer lies below the root exactly when
its index lies below the count (46_power_root.md R122). -/

section NearestRoot

/-- A condition that fails from some number on, and holds below every number where it holds, holds exactly below the
count of the numbers where it holds. -/
theorem lt_count_iff_of_downwardClosed {p : ℕ → Prop} [DecidablePred p] (closed : ∀ j k, j ≤ k → p k → p j)
    {n : ℕ} (bounded : ¬ p n) (k : ℕ) : k < Nat.count p n ↔ p k := by
  constructor
  · intro below
    by_contra fails
    obtain ⟨d, rfl⟩ := Nat.exists_eq_add_of_le (below.le.trans (Nat.count_le p))
    have none_after : Nat.count (fun j => p (k + j)) d = 0 :=
      Nat.count_iff_forall_not.2 fun j _ holds => fails (closed k (k + j) (Nat.le_add_right k j) holds)
    rw [Nat.count_add, none_after] at below
    exact absurd below (Nat.count_le p).not_gt
  · intro holds
    have inside : k + 1 ≤ n := Nat.lt_of_not_le fun h => bounded (closed n k h holds)
    calc k < k + 1 := Nat.lt_succ_self k
      _ = Nat.count p (k + 1) :=
        (Nat.count_iff_forall.2 fun j hj => closed j k (Nat.le_of_lt_succ hj) holds).symm
      _ ≤ Nat.count p n := Nat.count_monotone p inside

variable (v : Byte)

theorem fsqrtRounded_eq_count : fsqrtRounded v = Nat.count (fun k => (2 * k + 1) ^ 2 < 4 * v.toNat) 16 :=
  List.countP_eq_length_filter.symm

/-- The half-integer k + 1/2 lies below the square root of v exactly when k lies below the rounded root. -/
theorem lt_fsqrtRounded_iff (k : ℕ) : k < fsqrtRounded v ↔ (2 * k + 1) ^ 2 < 4 * v.toNat := by
  have small : v.toNat < 256 := v.isLt
  rw [fsqrtRounded_eq_count]
  refine lt_count_iff_of_downwardClosed (fun j k hjk hk => lt_of_le_of_lt ?_ hk) (by omega) k
  gcongr

theorem fsqrtRounded_le : fsqrtRounded v ≤ 16 := by
  rw [fsqrtRounded_eq_count]
  exact Nat.count_le _

theorem trunc8_fsqrtRounded_toNat : (trunc8 (fsqrtRounded v : Int)).toNat = fsqrtRounded v := by
  have small := fsqrtRounded_le v
  rw [trunc8_natCast_toNat, Nat.mod_eq_of_lt (by omega)]

theorem fsqrtRounded_eq_zero_iff : fsqrtRounded v = 0 ↔ v.toNat = 0 := by
  have first := lt_fsqrtRounded_iff v 0
  omega

/-- The half-integer above the rounded root is not the root: its square is odd over 4. -/
theorem lt_sq_fsqrtRounded : 4 * v.toNat < (2 * fsqrtRounded v + 1) ^ 2 := by
  have above : 4 * v.toNat ≤ (2 * fsqrtRounded v + 1) ^ 2 :=
    Nat.le_of_not_lt fun h => lt_irrefl _ ((lt_fsqrtRounded_iff v _).2 h)
  have odd : (2 * fsqrtRounded v + 1) ^ 2 = 4 * (fsqrtRounded v ^ 2 + fsqrtRounded v) + 1 := by ring
  omega

theorem sq_fsqrtRounded_lt (positive : 1 ≤ fsqrtRounded v) : (2 * fsqrtRounded v - 1) ^ 2 < 4 * v.toNat := by
  have below := (lt_fsqrtRounded_iff v (fsqrtRounded v - 1)).1 (by omega)
  have index : 2 * (fsqrtRounded v - 1) + 1 = 2 * fsqrtRounded v - 1 := by omega
  rwa [index] at below

end NearestRoot

/-- Settles O43: FSQRT stores the rounded root as a root, which is small enough to be its own low byte. -/
theorem fsqrtStoresTheNearestRoot : Obligations.FsqrtStoresTheNearestRoot := by
  intro s x
  obtain ⟨t, ht, frame, flags⟩ := exists_root_of_exec (exec_fsqrtR s x)
  refine ⟨t, _, ht, frame, ?_⟩
  rw [flags, trunc8_fsqrtRounded_toNat]
  refine ⟨lt_sq_fsqrtRounded _, fun zero => ?zeroRoot, fun nonzero => ?below, ?flag, rfl, rfl⟩
  case zeroRoot =>
    rw [(fsqrtRounded_eq_zero_iff _).2 zero]
    rfl
  case below =>
    have positive := Nat.one_le_iff_ne_zero.2 (mt (fsqrtRounded_eq_zero_iff _).1 nonzero)
    exact ⟨positive, sq_fsqrtRounded_lt _ positive⟩
  case flag => exact beq_iff_eq.trans (fsqrtRounded_eq_zero_iff _)

/-! SQRT's table (46_power_root.md R121). Where a byte's root changes follows from the constant's bits and not from the
real square root (110 gives 11), so for a named constant the algorithm is run on each byte. -/

section Table

/-- The inputs at which the byte in the table of R121 goes up by one. -/
def sqrtThresholds : List ℕ := [1, 3, 7, 13, 21, 31, 43, 57, 73, 91, 110, 133, 156, 182, 211, 240]

/-- R121's table: the number of thresholds that are at most the input. -/
def sqrtTable (v : Byte) : ℕ := (sqrtThresholds.filter fun k => k ≤ v.toNat).length

theorem sqrtTable_le (v : Byte) : sqrtTable v ≤ 16 := List.length_filter_le _ sqrtThresholds

/-- A rounded reciprocal that is a byte's number is the byte SQRT stores. -/
theorem sqrtByte_toNat_of_sqrtRounded {magic : BitVec 32} {v : Byte} {r : ℕ} (h : sqrtRounded magic v = some (r : ℤ))
    (small : r < 256) : (sqrtByte magic v).toNat = r := by
  rw [sqrtByte, h]
  exact (trunc8_natCast_toNat r).trans (Nat.mod_eq_of_lt small)

theorem sqrtRounded_defaultMagic_eq_sqrtTable :
    ∀ v : Byte, sqrtRounded 0x5F3759DF v = some (sqrtTable v : ℤ) := by decide

theorem sqrtRounded_alternativeMagic_eq_sqrtTable :
    ∀ v : Byte, sqrtRounded 0x5F375A86 v = some (sqrtTable v : ℤ) := by decide

end Table

/-- Settles O42: under both constants the rounded reciprocal is the table's number, which a byte holds. -/
theorem sqrtUnderTheClassicMagicIsTheTable : Obligations.SqrtUnderTheClassicMagicIsTheTable := by
  intro magic hmagic v
  have table : sqrtRounded magic v = some (sqrtTable v : ℤ) := by
    obtain rfl | rfl := hmagic
    · exact sqrtRounded_defaultMagic_eq_sqrtTable v
    · exact sqrtRounded_alternativeMagic_eq_sqrtTable v
  exact sqrtByte_toNat_of_sqrtRounded table ((sqrtTable_le v).trans_lt (by decide))

end Sys2Proof.Machine

/-! CALL and RET (47_call_return.md): both forms of CALL are the one shared call, a 16-bit push of pc and a jump, and
RET is the 16-bit pop into pc. -/

namespace Sys2Proof.Machine

section CallReturn
variable {s : State} {i : Instr} {target : Addr}

/-- A 16-bit pop neither reads nor writes pc (20_memory.md R48). -/
theorem pop16_setPc (s : State) (a : Addr) : pop16 (s.setPc a) = ((pop16 s).1, (pop16 s).2.setPc a) := rfl

/-- The push of pc and the jump are a call: the bytes of pc stand in the slots of the old sp and of its successor, and
no other byte is written (20_memory.md R47, 47_call_return.md R123). -/
theorem push16_setPc_called (s : State) (target : Addr) :
    Called s ((push16 s s.pc).setPc target) target.toNat := by
  refine ⟨rfl, ?sp, ?high, ?low, ?others, fun _ => rfl, rfl, rfl, rfl⟩
  case sp =>
    rw [State.setPc_sp, push16_sp]
    bv_omega
  case high => rw [State.setPc_memRead, push16_memRead_high, highByte_toNat]
  case low => rw [State.setPc_memRead, push16_memRead_low, lowByte_toNat]
  case others => exact fun a high low => push16_memRead_other s s.pc a low high

/-- An instruction that is a call completes, with the call's frame. -/
theorem exists_called_of_exec (h : exec i s = call target s) :
    ∃ t, exec i s = .next t ∧ Called s t target.toNat :=
  ⟨_, h.trans (call_next.2 rfl), push16_setPc_called s target⟩

/-- RET after an instruction that is a call pops the pc the call pushed, also where sp wraps (47_call_return.md R125,
20_memory.md R50). -/
theorem exists_returned_of_exec (h : exec i s = call target s) :
    ∃ t u, exec i s = .next t ∧ exec .ret t = .next u ∧
      u.pc = s.pc ∧ u.sp = s.sp ∧ SameRegs s u ∧ u.flags = s.flags := by
  obtain ⟨pc, sp⟩ := pop16_push16 s s.pc
  have returned := exec_ret ((push16 s s.pc).setPc target)
  rw [pop16_setPc] at returned
  exact ⟨_, _, h.trans (call_next.2 rfl), returned, pc, sp, fun _ => rfl, rfl⟩

end CallReturn

/-- Settles O44: each form is the shared call, and the pair's number is that of the target it calls. -/
theorem callPushesTheReturnAddress : Obligations.CallPushesTheReturnAddress := by
  intro s x y nn
  refine ⟨?address, ?pair⟩
  case address => exact exists_called_of_exec (exec_callA s nn)
  case pair =>
    rw [← pairAddress_toNat]
    exact exists_called_of_exec (exec_callP s x y)

/-- Settles O46: a 16-bit pop undoes a 16-bit push, whatever target the call went to in between. -/
theorem retUndoesCall : Obligations.RetUndoesCall := fun s x y nn =>
  ⟨exists_returned_of_exec (exec_callA s nn), exists_returned_of_exec (exec_callP s x y)⟩

/-- Settles O45: RET joins the bytes of the two slots below sp, the high byte from the lower sp. On a byte, subtracting
2 is adding 254 modulo 256. -/
theorem retPopsThePc : Obligations.RetPopsThePc := by
  intro s
  have twice : s.sp - 1 - 1 = s.sp - 2 := by bv_omega
  have returned := exec_ret s
  rw [pop16_eq, twice] at returned
  refine ⟨_, returned, joinBytes_toNat _ _, ?sp, fun _ => rfl, rfl, fun _ => rfl, rfl, rfl⟩
  case sp =>
    rw [State.setPc_sp, State.setSp_sp]
    bv_omega

end Sys2Proof.Machine

/-! STORE (48_store.md): every form is one write of a byte to memory. -/

namespace Sys2Proof.Machine

section Store
variable {s : State} {i : Instr} {a : Addr} {v : Byte}

/-- A memory write replaces the byte at its address and changes nothing else (20_memory.md R39, R40). -/
theorem State.memWrite_onlyByte (s : State) (a : Addr) (v : Byte) : OnlyByte s (s.memWrite a v) a v := by
  refine ⟨⟨?same, ?others⟩, fun _ => rfl, s.memWrite_flags a v, s.memWrite_pc a v, s.memWrite_sp a v,
    s.memWrite_params a v, s.memWrite_reply a v⟩
  case same => rw [State.memRead_memWrite, if_pos rfl]
  case others =>
    intro b hb
    rw [State.memRead_memWrite, if_neg hb]

/-- An instruction that is a memory write completes, with the write's frame. -/
theorem exists_onlyByte_of_exec (h : exec i s = .next (s.memWrite a v)) :
    ∃ t, exec i s = .next t ∧ OnlyByte s t a v :=
  ⟨_, h, s.memWrite_onlyByte a v⟩

end Store

/-- Settles O47: each form is a memory write of its operand to its address. -/
theorem storeWritesOneByte : Obligations.StoreWritesOneByte := by
  intro s x y z n nn
  refine ⟨?pairRegister, ?addressRegister, ?pairImmediate, ?addressImmediate, pairAddress_toNat s x y⟩
  case pairRegister => exact exists_onlyByte_of_exec (exec_storePR s x y z)
  case addressRegister => exact exists_onlyByte_of_exec (exec_storeAR s x nn)
  case pairImmediate => exact exists_onlyByte_of_exec (exec_storePI s x y n)
  case addressImmediate => exact exists_onlyByte_of_exec (exec_storeAI s n nn)

end Sys2Proof.Machine

/-! HALT (49_halt.md): every form is the shared end of a tick with a code, which writes the reply alone. -/

namespace Sys2Proof.Machine

section Halt
variable {s : State} {i : Instr} {code : Byte}

/-- Replying Halt writes the reply alone: the state stays readable (70_reset_and_hazards.md R161). -/
theorem State.setReply_haltedWith (s : State) (code : Byte) : HaltedWith s (s.setReply (.halt code)) code :=
  ⟨s.setReply_reply _, fun _ => rfl, s.setReply_flags _, s.setReply_memRead _, s.setReply_pc _, s.setReply_sp _,
    s.setReply_params _⟩

/-- An instruction that is a halt completes, and writes the reply alone. -/
theorem exists_haltedWith_of_exec (h : exec i s = haltWith code s) :
    ∃ t, exec i s = .next t ∧ HaltedWith s t code :=
  ⟨_, h.trans (haltWith_next.2 rfl), s.setReply_haltedWith code⟩

end Halt

/-- Settles O48: each form is the shared halt with its code, and the sink's byte is 0. -/
theorem haltRepliesWithItsCode : Obligations.HaltRepliesWithItsCode := by
  intro s x n
  refine ⟨?zero, ?immediate, ?register⟩
  case zero => exact exists_haltedWith_of_exec (exec_halt s)
  case immediate => exact exists_haltedWith_of_exec (exec_haltI s n)
  case register => exact exists_haltedWith_of_exec (exec_haltR s x)

end Sys2Proof.Machine

/-! Exit statuses (60_exceptions.md section 5). -/

namespace Sys2Proof.Machine

section ExitStatus
variable {s : State} {code : Byte} {c : Fault} {k : Nat}

theorem exitStatus_of_halt (h : s.reply = .halt code) : exitStatus (.next s) = some code.toNat := by
  simp only [exitStatus, h]

theorem exitStatus_of_conditionCode (h : conditionCode c = some k) :
    exitStatus (.fault c) = some (exitOfCode k) := by
  rw [exitStatus, h, Option.map_some]

/-- Abnormal-Termination has code 6 (60_exceptions.md R135, R142). -/
theorem exitStatus_abnormalTermination (info : AbnormalInfo) :
    exitStatus (.fault (.abnormalTermination info)) = some 134 :=
  exitStatus_of_conditionCode (k := 6) rfl

/-- Illegal-Register has code 11 (60_exceptions.md R135, R142). -/
theorem exitStatus_illegalRegister (a : Byte) : exitStatus (.fault (.illegalRegister a)) = some 139 :=
  exitStatus_of_conditionCode (k := 11) rfl

end ExitStatus

/-- Settles O52: the status of a halt is its code, that of a condition follows from its code, and the two conditions
named have the codes 6 and 11. -/
theorem exitStatusFollowsTheReply : Obligations.ExitStatusFollowsTheReply :=
  ⟨fun _ _ => exitStatus_of_halt, fun _ _ => exitStatus_of_conditionCode, exitStatus_abnormalTermination,
    exitStatus_illegalRegister⟩

end Sys2Proof.Machine

/-! Unassigned opcode bytes (49_halt.md R133): no form is found for one, so the decoder stops at it before it takes an
operand byte. Under the default map they are the bytes between its two runs of assigned ones. -/

namespace Sys2Proof

section Unassigned
variable {m : OpcodeMap} {op : Byte}

theorem OpcodeMap.formOf_eq_none_iff : m.formOf op = none ↔ ∀ f, m.opcode f ≠ op := by
  simp [OpcodeMap.formOf, List.find?_eq_none, Form.mem_all]

theorem parse_of_formOf_eq_none {σ : Type} {next : σ → Byte × σ} {src : σ} (h : m.formOf (next src).1 = none) :
    parse next m src = .error (.unknownOpcode (next src).1) := by
  rw [parse, h]

theorem Form.index_surjective : Function.Surjective Form.index := by
  have places : ∀ k : Fin 53, Form.all[k].index = k := by decide
  exact fun k => ⟨Form.all[k], places k⟩

/-- The default map numbers the forms in table order, and puts the last three at the end of the byte range
(30_encoding.md R69). -/
theorem defaultOpcodeMap_opcode_toNat (f : Form) : (defaultOpcodeMap.opcode f).toNat =
    if f.index.val < 50 then f.index.val else f.index.val + 203 := by
  cases f <;> rfl

theorem exists_defaultOpcodeMap_opcode_iff :
    (∃ f, defaultOpcodeMap.opcode f = op) ↔ op.toNat < 0x32 ∨ 0xFC < op.toNat := by
  have byte : op.toNat < 256 := op.isLt
  constructor
  · rintro ⟨f, rfl⟩
    have number := defaultOpcodeMap_opcode_toNat f
    split at number <;> omega
  · rintro (low | high)
    · obtain ⟨f, hf⟩ := Form.index_surjective ⟨op.toNat, by omega⟩
      refine ⟨f, BitVec.eq_of_toNat_eq ?_⟩
      rw [defaultOpcodeMap_opcode_toNat, hf, if_pos low]
    · obtain ⟨f, hf⟩ := Form.index_surjective ⟨op.toNat - 203, by omega⟩
      refine ⟨f, BitVec.eq_of_toNat_eq ?_⟩
      rw [defaultOpcodeMap_opcode_toNat, hf, if_neg (show ¬ op.toNat - 203 < 50 by omega)]
      exact Nat.sub_add_cancel (by omega)

theorem defaultOpcodeMap_unassigned_iff :
    (∀ f, defaultOpcodeMap.opcode f ≠ op) ↔ 0x32 ≤ op.toNat ∧ op.toNat ≤ 0xFC := by
  rw [← not_exists, exists_defaultOpcodeMap_opcode_iff, not_or, not_lt, not_lt]

end Unassigned

end Sys2Proof

namespace Sys2Proof.Machine

theorem step_of_unassigned {s : State} (running : ¬ Halted s)
    (unassigned : ∀ f, s.params.opcodeMap.opcode f ≠ s.memRead s.pc) :
    step s = .fault (.abnormalTermination (.unknownOpcode (s.memRead s.pc))) :=
  step_of_decode_error running (parse_of_formOf_eq_none (OpcodeMap.formOf_eq_none_iff.2 unassigned))

/-- Settles O5: the fetch of an unassigned byte is a decoding error, whose condition has code 6; the default map assigns
the bytes below 0x32 and above 0xFC. -/
theorem unknownOpcodeEndsTheRun : Obligations.UnknownOpcodeEndsTheRun := by
  refine ⟨fun s running unassigned => ?_, fun _ => rfl, fun _ => defaultOpcodeMap_unassigned_iff⟩
  rw [step_of_unassigned running unassigned]
  exact ⟨rfl, exitStatus_abnormalTermination _⟩

end Sys2Proof.Machine

/-! The life of a machine (70_reset_and_hazards.md R151, R153): creation, one LOAD at most before the first step, and
from then on a reply. -/

namespace Sys2Proof.Machine

/-- Settles O9: a created memory is empty, so reads 0, and every other field is the one asked for. -/
theorem creationLeavesTheSpecsState : Obligations.CreationLeavesTheSpecsState :=
  fun _ _ => ⟨Memory.read_nil, rfl, rfl, fun _ => rfl, rfl⟩

section Reply
variable {image : List Byte} {s t : State}

theorem load_of_replied (hs : s.reply ≠ .idle) : load image s = .refused .secondLoad := by
  unfold load
  split
  · next idle => exact absurd idle hs
  · rfl

/-- The first LOAD is never refused: it goes on or is too large (20_memory.md R55). -/
theorem load_ne_refused_of_idle (hs : s.reply = .idle) (r : Refusal) : load image s ≠ .refused r := by
  rcases le_or_gt image.length 65536 with fits | large
  · rw [load_of_idle hs fits]
    exact nofun
  · rw [load_of_idle_too_large hs large]
    exact nofun

theorem load_refused_iff : load image s = .refused .secondLoad ↔ s.reply ≠ .idle :=
  ⟨fun h idle => load_ne_refused_of_idle idle _ h, load_of_replied⟩

/-- A LOAD that goes on replies `ok` (20_memory.md R55). -/
theorem load_next_reply (h : load image s = .next t) : t.reply = .ok := by
  have idle : s.reply = .idle := by
    by_contra replied
    rw [load_of_replied replied] at h
    cases h
  rcases le_or_gt image.length 65536 with fits | large
  · rw [load_of_idle idle fits] at h
    cases h
    rfl
  · rw [load_of_idle_too_large idle large] at h
    cases h

/-- An instruction keeps the reply or halts, so it does not take a reply back (30_encoding.md R73). -/
theorem Effect.reply_ne_idle (h : Effect s t) (hs : s.reply ≠ .idle) : t.reply ≠ .idle := by
  cases h with
  | nothing | flags | store | jump | push | call | ret => exact hs
  | register | registerAndFlags | pop =>
    rw [State.writeReg_reply]
    exact hs
  | halt => exact nofun

/-- A step that goes on has replied: Continue is set before the instruction runs (30_encoding.md R72). -/
theorem step_next_reply_ne_idle (h : step s = .next t) : t.reply ≠ .idle := by
  obtain ⟨i, a, -, hexec⟩ := step_next h
  exact (exec_effect hexec).reply_ne_idle nofun

end Reply

/-- Settles O14: LOAD asks for a state without a reply, and neither a LOAD nor a step that goes on leaves one. -/
theorem loadHappensOnceBeforeTheFirstStep : Obligations.LoadHappensOnceBeforeTheFirstStep :=
  ⟨fun _ _ => load_refused_iff, fun _ _ _ h => by rw [load_next_reply h]; exact nofun,
    fun _ _ => step_next_reply_ne_idle⟩

end Sys2Proof.Machine
